-- ==== Sys2Proof/Word.lean ====
section
/-! DEFINITION. The numbers of the block: every value is an unsigned integer and all arithmetic is exact
(00_scope.md rules R8, R9; 20_memory.md rule R84).

A word is a `B`-bit unsigned integer, `0 <= word < 2^B` (rule R8). `B` is a build parameter with many legal values
(rule R6), so a word is carried as the natural number it is. The bound `< 2^B` is part of the invariant
(`Sys2Proof.Machine.State.Inv`) and of well-formed commands (`Sys2Proof.Instr.WellFormed`). Lengths, counts, widths,
word numbers and element indices are natural numbers for the same reason. -/

namespace Sys2Proof

/-- `ceil_div(a, n)` (rule R9). -/
def ceilDiv (a n : Nat) : Nat := (a + n - 1) / n

/-- `mask(w) = 2^w - 1` (rule R9). -/
def mask (w : Nat) : Nat := 2 ^ w - 1

end Sys2Proof
end

