-- ==== Sys2Proof/Config.lean ====
section
/-! DEFINITION. What is fixed when the block is built, and the one value the spec leaves open
(00_scope.md rules R6, R7, R10). -/

namespace Sys2Proof

/-- The build parameters of rule R6: the word size `B`, the index width `IDX_BITS`, the capacities `KEY_WORDS` and
`VAL_WORDS` of the two banks. -/
structure Params where
  wordBits : Nat
  idxBits : Nat
  keyWords : Nat
  valWords : Nat
deriving DecidableEq, Repr

/-- The legal parameter values of rule R6. A record that breaks one of these is not a block
(93_implementation_defined.md U18). -/
abbrev Params.Legal (p : Params) : Prop :=
  8 ≤ p.wordBits ∧ p.wordBits % 8 = 0 ∧ 1 ≤ p.idxBits ∧
    p.keyWords * p.wordBits < 2 ^ p.idxBits ∧ p.valWords * p.wordBits < 2 ^ p.idxBits

/-- The parameters of `State.reset`. `B = 256` and `IDX_BITS = 32` are the reference values of rule R6.
DESIGN CHOICE (log entry 1; safe: every statement is about all legal parameters): the spec gives the capacities no
reference value, and 157 and 1 are what the reference instance needs (rule R6, 43_dictmap.md rule R154). -/
def Config.reference : Params := ⟨256, 32, 157, 1⟩

/-- FREE VALUE (log entry 5): `Config.zextFree n v` stands for `zext_n(v)` where `v` does not fit `n` bits. Rule R10
defines `zext_N(v)` only for `v < 2^N`, and a `CSRR` of a wide register can ask for more when `B` is small. It has no
body, so no proof can use a value of it. -/
opaque Config.zextFree : Nat → Nat → Nat

end Sys2Proof
end

