-- ==== Sys2Proof/Syntax.lean ====
section
/-! DEFINITION. The commands of the block as syntax (30_encoding.md rules R90, R93). -/

namespace Sys2Proof

/-- The two banks: `KEY` (number 0) and `VAL` (number 1) (00_scope.md rule R11). -/
inductive Bank where
  | key
  | val
deriving DecidableEq, Repr

/-- The twelve commands of rule R93, each with the operand fields it reads (rule R106): the bank is `sel[0]`, the CSR
operand is the 4-bit `sel` as a number 0 to 15, `idx` and `data` are the unsigned integers they spell. -/
inductive Instr where
  /-- `NOP` (44_system.md rule R165). -/
  | nop
  /-- `CSRR csr` (44_system.md rule R166). -/
  | csrr (csr : Fin 16)
  /-- `CSRW csr, value` (44_system.md rule R167). -/
  | csrw (csr : Fin 16) (value : Nat)
  /-- `PKBEGIN bank` (41_packer.md rule R111). -/
  | pkbegin (bank : Bank)
  /-- `PKPUSH value` (41_packer.md rule R112). -/
  | pkpush (value : Nat)
  /-- `PKEND` (41_packer.md rule R113). -/
  | pkend
  /-- `LDWORD bank, word` (42_unpacker.md rule R131). -/
  | ldword (bank : Bank) (word : Nat)
  /-- `SEAL bank` (42_unpacker.md rule R132). -/
  | sealBank (bank : Bank)
  /-- `RDWORD bank, addr` (42_unpacker.md rule R133). -/
  | rdword (bank : Bank) (addr : Nat)
  /-- `UNPACK bank, index` (42_unpacker.md rule R134). -/
  | unpack (bank : Bank) (index : Nat)
  /-- `GET key` (43_dictmap.md rule R151). -/
  | get (key : Nat)
  /-- `RST` (44_system.md rule R168). -/
  | rst
deriving DecidableEq, Repr

end Sys2Proof
end

