-- ==== Sys2Proof/WellFormed.lean ====
section
/-! DEFINITION. Which commands can be expressed with given parameters: an operand fits its field
(30_encoding.md rules R90, R106). -/

namespace Sys2Proof

/-- A `data` operand fits its `B`-bit field (rule R106). -/
abbrev Params.FitsData (p : Params) (v : Nat) : Prop := v < 2 ^ p.wordBits

/-- An `idx` operand fits its `IDX_BITS`-bit field (rule R106). -/
abbrev Params.FitsIdx (p : Params) (v : Nat) : Prop := v < 2 ^ p.idxBits

/-- The command can be expressed: each operand it reads fits its field. -/
def Instr.wellFormed (p : Params) : Instr → Bool
  | .nop => true
  | .csrr _ => true
  | .csrw _ v => decide (p.FitsData v)
  | .pkbegin _ => true
  | .pkpush v => decide (p.FitsData v)
  | .pkend => true
  | .ldword _ v => decide (p.FitsData v)
  | .sealBank _ => true
  | .rdword _ a => decide (p.FitsIdx a)
  | .unpack _ i => decide (p.FitsIdx i)
  | .get k => decide (p.FitsIdx k)
  | .rst => true

/-- `Instr.wellFormed` as a proposition. -/
abbrev Instr.WellFormed (p : Params) (i : Instr) : Prop := i.wellFormed p = true

end Sys2Proof
end

