-- ==== Sys2Proof/Decode.lean ====
section
/-! DEFINITION. The command decoder and encoder (30_encoding.md rules R90 to R98). -/

namespace Sys2Proof

/-- `width` bits of `v` from bit `lo` up: `v[lo+width-1 : lo]` in the notation of 00_scope.md rule R8. -/
def bitField (v lo width : Nat) : Nat := (v >>> lo) % 2 ^ width

/-- The three fields of a command (rule R90). -/
structure Command where
  op : Nat
  idx : Nat
  data : Nat
deriving DecidableEq, Repr

/-- The length of every command in bits (rule R90). -/
def cmdBits (p : Params) : Nat := 8 + p.idxBits + p.wordBits

/-- The fields of a command given as one bit vector `op ‖ idx ‖ data` (rule R90). -/
def splitCommand (p : Params) (cmd : Nat) : Command where
  op := bitField cmd (p.wordBits + p.idxBits) 8
  idx := bitField cmd p.wordBits p.idxBits
  data := bitField cmd 0 p.wordBits

/-- The bit vector `op ‖ idx ‖ data` (rules R8, R90). -/
def joinCommand (p : Params) (c : Command) : Nat :=
  (c.op * 2 ^ p.idxBits + c.idx) * 2 ^ p.wordBits + c.data

/-- The bank operand: `sel[0]`, 0 is `KEY` and 1 is `VAL` (rules R94, R106). -/
def bankOfSel (sel : Nat) : Bank := if sel % 2 = 0 then .key else .val

/-- The bank's number (00_scope.md rule R11). -/
def bankNumber : Bank → Nat
  | .key => 0
  | .val => 1

/-- The CSR operand: `sel` as a number 0 to 15 (rules R95, R106). -/
def csrOfSel (sel : Nat) : Fin 16 := ⟨sel % 16, Nat.mod_lt _ (by decide)⟩

/-- What a command decodes to: one of the twelve commands, or a reserved op byte by its value (rule R97). -/
inductive Decoded where
  | instr (i : Instr)
  | reservedOp (op : Nat)
deriving DecidableEq, Repr

/-- The decoder of rule R98: total, and every op byte it does not list is reserved. -/
def decodeCommand (c : Command) : Decoded :=
  let major := bitField c.op 4 4
  let sel := bitField c.op 0 4
  if major = 0x0 ∧ sel = 0 then .instr .nop
  else if major = 0x1 then .instr (.csrr (csrOfSel sel))
  else if major = 0x2 then .instr (.csrw (csrOfSel sel) c.data)
  else if major = 0x3 ∧ sel ≤ 1 then .instr (.pkbegin (bankOfSel sel))
  else if major = 0x4 ∧ sel = 0 then .instr (.pkpush c.data)
  else if major = 0x5 ∧ sel = 0 then .instr .pkend
  else if major = 0x6 ∧ sel ≤ 1 then .instr (.ldword (bankOfSel sel) c.data)
  else if major = 0x7 ∧ sel ≤ 1 then .instr (.sealBank (bankOfSel sel))
  else if major = 0x8 ∧ sel ≤ 1 then .instr (.rdword (bankOfSel sel) c.idx)
  else if major = 0x9 ∧ sel ≤ 1 then .instr (.unpack (bankOfSel sel) c.idx)
  else if major = 0xA ∧ sel = 0 then .instr (.get c.idx)
  else if major = 0xF ∧ sel = 0 then .instr .rst
  else .reservedOp c.op

/-- Decodes a command given as a bit vector; bits above the command's length do not exist on the port and are not
read. -/
def decode (p : Params) (cmd : Nat) : Decoded := decodeCommand (splitCommand p cmd)

/-- The op byte of a command (rule R93). -/
def opByte : Instr → Nat
  | .nop => 0x00
  | .csrr c => 0x10 + c.val
  | .csrw c _ => 0x20 + c.val
  | .pkbegin b => 0x30 + bankNumber b
  | .pkpush _ => 0x40
  | .pkend => 0x50
  | .ldword b _ => 0x60 + bankNumber b
  | .sealBank b => 0x70 + bankNumber b
  | .rdword b _ => 0x80 + bankNumber b
  | .unpack b _ => 0x90 + bankNumber b
  | .get _ => 0xA0
  | .rst => 0xF0

/-- The fields of a command as the assembler writes them: a field the command does not read is 0 (rule R100). -/
def commandOf : Instr → Command
  | .csrw c v => ⟨opByte (.csrw c v), 0, v⟩
  | .pkpush v => ⟨opByte (.pkpush v), 0, v⟩
  | .ldword b v => ⟨opByte (.ldword b v), 0, v⟩
  | .rdword b a => ⟨opByte (.rdword b a), a, 0⟩
  | .unpack b i => ⟨opByte (.unpack b i), i, 0⟩
  | .get k => ⟨opByte (.get k), k, 0⟩
  | .nop => ⟨opByte .nop, 0, 0⟩
  | .csrr c => ⟨opByte (.csrr c), 0, 0⟩
  | .pkbegin b => ⟨opByte (.pkbegin b), 0, 0⟩
  | .pkend => ⟨opByte .pkend, 0, 0⟩
  | .sealBank b => ⟨opByte (.sealBank b), 0, 0⟩
  | .rst => ⟨opByte .rst, 0, 0⟩

/-- The encoder: the command's bits (rules R90, R93, R100). -/
def encode (p : Params) (i : Instr) : Nat := joinCommand p (commandOf i)

/-- The command whose op byte is `w` and whose operand fields are 0. The opcode table numbers the bits of the op byte
only, which is the most significant byte of the command (rule R90) and so its first byte. -/
def tableCommand (p : Params) (w : Nat) : Nat := joinCommand p ⟨w % 256, 0, 0⟩

/-- What the decoder reads from a row of `opcode_table.json`: rows have 8 bits, the op byte. -/
def decodeTableWord (nbits w : Nat) : Option Instr :=
  if nbits = 8 ∧ w < 256 then
    match decode Config.reference (tableCommand Config.reference w) with
    | .instr i => some i
    | .reservedOp _ => none
  else none

end Sys2Proof
end

