-- ==== Sys2Proof/Machine/State.lean ====
section
/-! DEFINITION. The state of the block, its reset value, and the reasons a step can stop (10_state.md rules R22, R45). -/

namespace Sys2Proof.Machine

/-- A bank's word memory: (word address, word) pairs, addresses strictly rising. The smallest addressable unit is the
`B`-bit word (10_state.md rule R39, 20_memory.md rule R75). An address that is not listed has no value
(20_memory.md rule R79; log entry 2). -/
abbrev Memory := List (Nat × Nat)

/-- The canonical form of a memory: addresses strictly rising, so no address is listed twice. An unlisted address has
no value, so no listed word can equal it. -/
def Memory.wf (m : Memory) : Bool := decide (m.Pairwise fun x y => x.1 < y.1)

/-- What one bank holds (10_state.md rule R22): the element width `W[b]`, the logical length `LEN[b]`, the number of
words written `NW[b]`, the flag `SEALED[b]`, and the words `MEM[b]`. -/
structure BankState where
  w : Nat
  len : Nat
  nw : Nat
  isSealed : Bool
  mem : Memory
deriving DecidableEq, Repr

/-- The eleven error kinds of 60_exceptions.md rule R180. -/
inductive ErrorKind where
  | valueOutOfRange
  | indexOutOfRange
  | keyOutOfRange
  | illegalCommand
  | bankSealed
  | notSealed
  | packerState
  | badConfig
  | capacityExceeded
  | lengthMismatch
  | addressOutOfRange
deriving DecidableEq, Repr

/-- One response of the block, `status(8) ‖ data(B)` (30_encoding.md rule R91). -/
structure Response where
  status : BitVec 8
  data : Nat
deriving DecidableEq, Repr

/-- What the host does at the block's inputs (30_encoding.md rule R90, 70_reset_and_hazards.md rule R210). -/
inductive HostEvent where
  /-- A command is presented, as the bit vector `op ‖ idx ‖ data`. -/
  | command (bits : Nat)
  /-- Reset is applied and released. `lost` are the commands that were in progress or were presented meanwhile: they
  are lost without a response (rule R210, 93_implementation_defined.md U20). -/
  | reset (lost : List Nat)
deriving DecidableEq, Repr

/-- The state. `key` and `val` to `cnt` are the block's own state (10_state.md rule R22). `params` are the build
parameters (rule R42: fixed, no step changes them; log entry 1). `port` is what the host presents, next first, and
`responses` what it has received, newest first (log entries 3 and 4): both belong to the host, no command reads them. -/
structure State where
  params : Params
  key : BankState
  val : BankState
  pkCount : Nat
  err : BitVec 12
  pkActive : Bool
  pkBank : Bank
  acc : Nat
  cnt : Nat
  port : List HostEvent
  responses : List Response
deriving DecidableEq, Repr

/-- Reasons to stop. None is reached from a state that meets the invariant of 10_state.md rule R41; each is where the
spec gives an operation no meaning outside its domain. -/
inductive Fault where
  /-- Raised by `RDWORD`, `UNPACK` and `GET` where the word read has no value: `MemRead` is defined only for `a < NW[b]`
  (20_memory.md rules R76, R79). Safe. -/
  | unwrittenWord
  /-- Raised by `PKPUSH`, `PKEND` and `LDWORD` where the word written does not exist: `MemWrite` is called only with
  `a < CAP[b]` (20_memory.md rule R77). Safe. -/
  | noSuchWord
  /-- Raised by `PKPUSH`, `PKEND` and `LDWORD` where the value written is no word: `MemWrite` takes `v < 2^B`
  (20_memory.md rule R77). Safe. -/
  | wordTooWide
  /-- Raised by `CSRR`, `PKPUSH`, `SEAL`, `UNPACK` and `GET` where the bank's width is outside `1..B`: the layout
  functions are not defined for it (20_memory.md rule R61). Safe. -/
  | widthUndefined
deriving DecidableEq, Repr

/-- Reasons to give no meaning. -/
inductive Refusal where
  /-- Raised by an arm of `exec` whose instruction has no meaning yet. Safe. -/
  | notModelled (mnemonic : String)
  /-- Raised by `step` where the parameters break 00_scope.md rule R6: such a configuration is not a block
  (93_implementation_defined.md U18). Safe. -/
  | notABlock
deriving DecidableEq, Repr

/-- An open, empty, unconfigured bank (10_state.md rule R45). -/
def BankState.reset : BankState where
  w := 0
  len := 0
  nw := 0
  isSealed := false
  mem := []

/-- The block with parameters `p` right after reset (10_state.md rule R45), nothing presented and nothing answered. -/
def State.init (p : Params) : State where
  params := p
  key := BankState.reset
  val := BankState.reset
  pkCount := 0
  err := 0#12
  pkActive := false
  pkBank := .key
  acc := 0
  cnt := 0
  port := []
  responses := []

/-- The reference block right after reset. -/
def State.reset : State := State.init Config.reference

end Sys2Proof.Machine
end

