-- ==== Sys2Proof/Machine/Flags.lean ====
section
/-! DEFINITION. The flags of the block: `STATUS`, a view of the lifecycle flags, and the sticky error mask `ERR`
(10_state.md rules R25, R26, R43; 60_exceptions.md rule R180). The block has no arithmetic condition codes (R43). -/

namespace Sys2Proof.Machine

/-- The status code of an error, which is also its bit in `ERR` (60_exceptions.md rule R180). -/
def errorCode : ErrorKind → Nat
  | .valueOutOfRange => 1
  | .indexOutOfRange => 2
  | .keyOutOfRange => 3
  | .illegalCommand => 4
  | .bankSealed => 5
  | .notSealed => 6
  | .packerState => 7
  | .badConfig => 8
  | .capacityExceeded => 9
  | .lengthMismatch => 10
  | .addressOutOfRange => 11

/-- The `ERR` bit of an error (10_state.md rule R26). -/
def errorBit (e : ErrorKind) : BitVec 12 := 1#12 <<< errorCode e

/-- The `status` byte of an error response (30_encoding.md rule R104). -/
def errorStatus (e : ErrorKind) : BitVec 8 := BitVec.ofNat 8 (errorCode e)

/-- The number of a bank as the flag `PK_BANK` shows it (10_state.md rule R25). -/
def bankFlag : Bank → Nat
  | .key => 0
  | .val => 1

/-- `STATUS` (10_state.md rule R25, 44_system.md rule R166). -/
def statusView (s : State) : Nat :=
  s.key.isSealed.toNat ||| (s.val.isSealed.toNat <<< 1) ||| (s.pkActive.toNat <<< 2) ||| (bankFlag s.pkBank <<< 3)

/-- The three lifecycle states of a bank (10_state.md rule R40). -/
inductive Lifecycle where
  | opened
  | packing
  | closed
deriving DecidableEq, Repr

/-- The lifecycle state of bank `b`: `OPEN`, `PACKING` or `SEALED` (10_state.md rule R40). -/
def lifecycle (s : State) (b : Bank) : Lifecycle :=
  if (match b with | .key => s.key.isSealed | .val => s.val.isSealed) then .closed
  else if s.pkActive = true ∧ s.pkBank = b then .packing
  else .opened

end Sys2Proof.Machine
end

