-- ==== Sys2Proof/Machine/Layout.lean ====
section
/-! DEFINITION. The packed-array layout (20_memory.md rules R61 to R73) and the pure functions `pack`, `unpack`, `get`,
`build` and the oracle (41_packer.md rule R110, 42_unpacker.md rule R130, 43_dictmap.md rules R150, R152, R156).

The element width is `w`, the word size `b`. All of it is arithmetic on natural numbers; the functions are meant for
`1 ≤ w ≤ b` (rule R61), and a command that needs one of them outside that range stops (`State.width?`). -/

namespace Sys2Proof.Machine

/-- `ceil(log2(k))` for `k ≥ 1`: the least `n` with `2^n ≥ k` (00_scope.md rule R9). Rule R9 gives no value for `k = 0`;
DESIGN CHOICE (log entry 10; safe): 0 there, and no definition evaluates it there. -/
def ceilLog2 (k : Nat) : Nat := if k ≤ 1 then 0 else Nat.log2 (k - 1) + 1

/-- `WBITS`, the width of the width registers and of `CNT` (10_state.md rule R22). -/
def widthBits (b : Nat) : Nat := ceilLog2 (b + 1)

/-- The index width a host writes for a dictionary of `k` values, `max(1, ceil(log2(k)))` (43_dictmap.md rule R155 (c)).
For `k = 0` the rule says the formula is undefined; DESIGN CHOICE (log entry 10; safe): no width there. -/
def indexWidth (k : Nat) : Option Nat := if k = 0 then none else some (max 1 (ceilLog2 k))

/-- The sum of `f j` for `j` in `0 .. n-1`. -/
def sumTo : Nat → (Nat → Nat) → Nat
  | 0, _ => 0
  | n + 1, f => sumTo n f + f n

/-- `E_raw(W)`: raw elements per word (rule R62). -/
def eRaw (b w : Nat) : Nat := b / w

/-- `G0(W)`: natural group size (rule R63). -/
def naturalGroup (w : Nat) : Nat := 8 / Nat.gcd w 8

/-- `G(W)`: group size, capped so that a group never exceeds `B` bits (rule R64). -/
def groupSize (b w : Nat) : Nat := if naturalGroup w * w ≤ b then naturalGroup w else b / w

/-- `LG(W)`: bytes per group (rule R65). -/
def groupBytes (b w : Nat) : Nat := ceilDiv (groupSize b w * w) 8

/-- `GPW(W)`: groups per word (rule R65). -/
def groupsPerWord (b w : Nat) : Nat := (b / 8) / groupBytes b w

/-- `EPW(W)`: elements per word (rule R66). -/
def epw (b w : Nat) : Nat := groupSize b w * groupsPerWord b w

/-- `wordIndex(i)` (rule R67). -/
def wordIndex (b w i : Nat) : Nat := i / epw b w

/-- `offsetInWord(i)` (rule R67). -/
def offsetInWord (b w i : Nat) : Nat := i % epw b w

/-- `groupInWord(i)` (rule R67). -/
def groupInWord (b w i : Nat) : Nat := offsetInWord b w i / groupSize b w

/-- `elemInGroup(i)` (rule R67). -/
def elemInGroup (b w i : Nat) : Nat := offsetInWord b w i % groupSize b w

/-- The number of words of an array of `n` elements (rule R73). -/
def arrayWords (b w n : Nat) : Nat := ceilDiv n (epw b w)

/-! ### One word by the byte procedure (rule R68) -/

/-- Step a: the accumulator of group `g` of a word whose elements are `e`. -/
def groupAcc (b w : Nat) (e : Nat → Nat) (g : Nat) : Nat :=
  sumTo (groupSize b w) fun k => e (g * groupSize b w + k) <<< (k * w)

/-- Step b: byte `s` of the pre-reversal byte sequence `p`. -/
def preByte (b w : Nat) (e : Nat → Nat) (s : Nat) : Nat :=
  if s < groupsPerWord b w * groupBytes b w then
    (groupAcc b w e (s / groupBytes b w) >>> (8 * (s % groupBytes b w))) % 256
  else 0

/-- Step c: byte `t` of the reversed sequence `r` of a sequence `p` of `B/8` bytes. -/
def reversedByte (b : Nat) (p : Nat → Nat) (t : Nat) : Nat := p (b / 8 - 1 - t)

/-- Step d: the word whose bytes, most significant first, are `r`. -/
def bigEndianWord (b : Nat) (r : Nat → Nat) : Nat :=
  sumTo (b / 8) fun t => r t * 256 ^ (b / 8 - 1 - t)

/-- The word that holds the elements `e`, by the byte procedure (rule R68). -/
def packWordByBytes (b w : Nat) (e : Nat → Nat) : Nat :=
  bigEndianWord b (reversedByte b (preByte b w e))

/-- The word that holds the elements `e`, in closed form: element `j` at bit `j * w` (rule R70). -/
def packWord (b w : Nat) (e : Nat → Nat) : Nat := sumTo (epw b w) fun j => e j <<< (j * w)

/-! ### The packer and unpacker as functions -/

/-- Element `q * EPW + j` of a sequence, a missing one taken as 0 (rule R72). -/
def elementsOfWord (b w : Nat) (values : List Nat) (q j : Nat) : Nat := values.getD (q * epw b w + j) 0

/-- `pack(values, W, B)` (41_packer.md rule R110): fails with `ValueOutOfRange` if a value does not fit. -/
def pack (b w : Nat) (values : List Nat) : Except ErrorKind (List Nat) :=
  if values.all (fun v => decide (v < 2 ^ w)) then
    .ok ((List.range (arrayWords b w values.length)).map fun q =>
      packWordByBytes b w (elementsOfWord b w values q))
  else .error .valueOutOfRange

/-- Lane `j` of a word: `(word >> (j * W)) & mask(W)` (42_unpacker.md rule R130, closed form). -/
def lane (w : Nat) (word : Nat) (j : Nat) : Nat := (word >>> (j * w)) &&& mask w

/-- `unpack(words, W, B, i)` in closed form (42_unpacker.md rule R130); no result where the word does not exist. -/
def unpack (b w : Nat) (words : List Nat) (i : Nat) : Option Nat :=
  (words[wordIndex b w i]?).map fun word => lane w word (offsetInWord b w i)

/-- Byte `t` of a word, most significant first: `r[t]` of 42_unpacker.md rule R130 step c. -/
def wordByteBigEndian (b : Nat) (word : Nat) (t : Nat) : Nat := (word >>> (8 * (b / 8 - 1 - t))) % 256

/-- The accumulator of group `g` read from the byte sequence `p` (rule R130 step d). -/
def groupAccOfBytes (b w : Nat) (p : Nat → Nat) (g : Nat) : Nat :=
  sumTo (groupBytes b w) fun t => p (g * groupBytes b w + t) <<< (8 * t)

/-- Element `i` of a word by the byte procedure (rule R130 steps c to e). -/
def laneByBytes (b w : Nat) (word : Nat) (i : Nat) : Nat :=
  (groupAccOfBytes b w (reversedByte b (wordByteBigEndian b word)) (groupInWord b w i)
    >>> (i % groupSize b w * w)) &&& mask w

/-- `unpack(words, W, B, i)` by the byte procedure (42_unpacker.md rule R130). -/
def unpackByBytes (b w : Nat) (words : List Nat) (i : Nat) : Option Nat :=
  (words[wordIndex b w i]?).map fun word => laneByBytes b w word i

/-- A mapping: the six values of 43_dictmap.md rule R150. -/
structure Mapping where
  keyWords : List Nat
  wi : Nat
  n : Nat
  valWords : List Nat
  wv : Nat
  k : Nat
deriving DecidableEq, Repr

/-- `get(key)` over a mapping (43_dictmap.md rule R150). `none`: a word of the mapping is missing, so the precondition
of `unpack` fails and rule R150 gives no result. -/
def getOfMapping (b : Nat) (m : Mapping) (key : Nat) : Option (Except ErrorKind Nat) :=
  if key ≥ m.n then some (.error .keyOutOfRange)
  else
    (unpack b m.wi m.keyWords key).bind fun idx =>
      if idx ≥ m.k then some (.error .indexOutOfRange)
      else (unpack b m.wv m.valWords idx).map .ok

/-- `build(keyIndices, values)`: two independent packs (43_dictmap.md rule R152). -/
def build (b wi wv : Nat) (keyIndices values : List Nat) : Except ErrorKind Mapping :=
  match pack b wi keyIndices, pack b wv values with
  | .ok kw, .ok vw => .ok ⟨kw, wi, keyIndices.length, vw, wv, values.length⟩
  | .error e, _ => .error e
  | _, .error e => .error e

/-- The naive oracle `values[keyIndices[key]]` (43_dictmap.md rule R156); not hardware. -/
def naiveGet (keyIndices values : List Nat) (key : Nat) : Option Nat :=
  (keyIndices[key]?).bind fun idx => values[idx]?

/-- Words of storage of a mapping of `n` keys and `k` values (43_dictmap.md rule R154). -/
def storageWords (b wi wv n k : Nat) : Nat := arrayWords b wi n + arrayWords b wv k

end Sys2Proof.Machine
end

