-- ==== Sys2Proof/Machine/Ops.lean ====
section
/-! DEFINITION. The named operations over banks, words, packer, responses and errors that the commands share
(20_memory.md rules R76, R77; 41_packer.md rule R112; 60_exceptions.md rule R190; 00_scope.md rule R10). -/

namespace Sys2Proof.Machine

/-! ### Banks -/

/-- Bank `b` (00_scope.md rule R11). -/
def State.bank (s : State) : Bank → BankState
  | .key => s.key
  | .val => s.val

/-- Puts `x` in the place of bank `b`. -/
def State.setBank (s : State) (b : Bank) (x : BankState) : State :=
  match b with
  | .key => { s with key := x }
  | .val => { s with val := x }

/-- `CAP[b]` of given parameters (00_scope.md rule R6). -/
def capOf (p : Params) : Bank → Nat
  | .key => p.keyWords
  | .val => p.valWords

/-- `CAP[b]` (00_scope.md rule R6). -/
def State.cap (s : State) (b : Bank) : Nat := capOf s.params b

/-! ### Memory -/

/-- The word listed at `a`, if one is. -/
def Memory.read : Memory → Nat → Option Nat
  | [], _ => none
  | (x, v) :: m, a => if x = a then some v else Memory.read m a

/-- Puts `v` at `a`, keeping the addresses strictly rising. -/
def Memory.write : Memory → Nat → Nat → Memory
  | [], a, v => [(a, v)]
  | (x, u) :: m, a, v =>
    if a < x then (a, v) :: (x, u) :: m
    else if a = x then (a, v) :: m
    else (x, u) :: Memory.write m a v

/-- `MemRead(b, a)`: a value only for `a < NW[b]` (20_memory.md rules R76, R79). -/
def State.word? (s : State) (b : Bank) (a : Nat) : Option Nat :=
  if a < (s.bank b).nw then (s.bank b).mem.read a else none

/-- `MemWrite(b, NW[b], v)` and `NW[b] <- NW[b] + 1`: the only way a bank is written (20_memory.md rule R77). It has a
meaning only where the word exists and `v` is a word. -/
def State.appendWord (s : State) (b : Bank) (v : Nat) : Except Fault State :=
  if (s.bank b).nw < s.cap b then
    if v < 2 ^ s.params.wordBits then
      .ok (s.setBank b
        { s.bank b with nw := (s.bank b).nw + 1, mem := (s.bank b).mem.write (s.bank b).nw v })
    else .error .wordTooWide
  else .error .noSuchWord

/-- `NW[b] <- 0`: discards all words of the bank, which from then on have no value (20_memory.md rules R77, R79). -/
def State.discardWords (s : State) (b : Bank) : State :=
  s.setBank b { s.bank b with nw := 0, mem := [] }

/-! ### Packer -/

/-- Opens a construction on bank `b` (41_packer.md rule R111, the assignments). -/
def State.openPacker (s : State) (b : Bank) : State :=
  { s.discardWords b with pkActive := true, pkBank := b, pkCount := 0, acc := 0, cnt := 0 }

/-- Clears the packer: no construction is open (10_state.md rule R38). -/
def State.clearPacker (s : State) : State :=
  { s with pkActive := false, pkBank := .key, pkCount := 0, acc := 0, cnt := 0 }

/-- `abort` of 41_packer.md rule R112: the bank being filled is emptied and the packer cleared. -/
def State.abortConstruction (s : State) : State := (s.discardWords s.pkBank).clearPacker

/-- Places an element of width `w` in the staging word (41_packer.md rule R112). -/
def State.placeElement (s : State) (w v : Nat) : State :=
  { s with acc := s.acc ||| (v <<< (s.cnt * w)), cnt := s.cnt + 1, pkCount := s.pkCount + 1 }

/-- Writes the staging word to the bank being filled and empties it (41_packer.md rules R112, R113). -/
def State.flushWord (s : State) : Except Fault State :=
  match s.appendWord s.pkBank s.acc with
  | .ok t => .ok { t with acc := 0, cnt := 0 }
  | .error f => .error f

/-! ### Responses and errors -/

/-- `zext_n(v)`: `v` itself where it fits (00_scope.md rule R10). Where it does not, the spec gives no value and the
result is a free value of `n` bits (log entry 5). -/
def zext (n v : Nat) : Nat := if v < 2 ^ n then v else Config.zextFree n v % 2 ^ n

/-- Delivers a response (30_encoding.md rule R91). -/
def State.deliver (s : State) (r : Response) : State := { s with responses := r :: s.responses }

/-- The response as a bit vector `status ‖ data` (30_encoding.md rule R91). -/
def responseBits (p : Params) (r : Response) : Nat := r.status.toNat * 2 ^ p.wordBits + r.data

/-- `respond(v)`: ends the command with the response `(0, zext_B(v))` (00_scope.md rule R10). -/
def State.respond (s : State) (v : Nat) : Host.Outcome State Fault Refusal :=
  .next (s.deliver ⟨0#8, zext s.params.wordBits v⟩)

/-- Sets the error's bit in `ERR` (10_state.md rule R26). -/
def State.recordError (s : State) (e : ErrorKind) : State := { s with err := s.err ||| errorBit e }

/-- `raise e`: error entry (60_exceptions.md rule R190). The response is `(code(e), 0)`, `ERR` gets the error's bit and
nothing else changes. Nothing is saved and control goes nowhere; there is nothing to return from (rule R192). -/
def State.raise (s : State) (e : ErrorKind) : Host.Outcome State Fault Refusal :=
  .next ((s.recordError e).deliver ⟨errorStatus e, 0⟩)

/-! ### Reset and the ports -/

/-- Every piece of the block's state takes its reset value (10_state.md rule R45); the parameters and what belongs to
the host stay. -/
def State.clearAll (s : State) : State :=
  { State.init s.params with port := s.port, responses := s.responses }

/-- The next thing the host does at the inputs, and the state with it taken from the port (20_memory.md rule R80). -/
def State.takeEvent (s : State) : Option (HostEvent × State) :=
  match s.port with
  | [] => none
  | e :: rest => some (e, { s with port := rest })

/-- Reset applied from outside: the state is reset, there is no response, and the commands `lost` to it have no effect
(70_reset_and_hazards.md rule R210). -/
def applyReset (_lost : List Nat) (s : State) : Host.Outcome State Fault Refusal := .next s.clearAll

/-- A command with a reserved op byte: `IllegalCommand`, nothing else changes (30_encoding.md rule R97). -/
def rejectReserved (_op : Nat) (s : State) : Host.Outcome State Fault Refusal := s.raise .illegalCommand

end Sys2Proof.Machine
end

