-- ==== Sys2Proof/Machine/Operands.lean ====
section
/-! DEFINITION. The operand forms of the commands: the CSR operand, and an element of a bank by its linear index
(30_encoding.md rules R94, R95, R106; 10_state.md rule R23; 20_memory.md rule R67). The bank operand is the bank itself
(`Sys2Proof.bankOfSel`). -/

namespace Sys2Proof.Machine

/-- The twelve control registers (10_state.md rule R23). -/
inductive Csr where
  | wordbits
  | status
  | err
  | wKey
  | wVal
  | lenKey
  | lenVal
  | nwKey
  | nwVal
  | pkCount
  | epwKey
  | epwVal
deriving DecidableEq, Repr

/-- The register a CSR number names; 3, 13, 14 and 15 name none (10_state.md rules R23, R36). -/
def csrOfNumber (n : Fin 16) : Option Csr :=
  match n.val with
  | 0 => some .wordbits
  | 1 => some .status
  | 2 => some .err
  | 4 => some .wKey
  | 5 => some .wVal
  | 6 => some .lenKey
  | 7 => some .lenVal
  | 8 => some .nwKey
  | 9 => some .nwVal
  | 10 => some .pkCount
  | 11 => some .epwKey
  | 12 => some .epwVal
  | _ => none

/-- What a write to a read-write register writes: the width or the length of a bank. -/
inductive CsrTarget where
  | width (b : Bank)
  | length (b : Bank)
deriving DecidableEq, Repr

/-- The target of a write; a read-only register has none (10_state.md rule R23, 44_system.md rule R167). -/
def csrTarget : Csr → Option CsrTarget
  | .wKey => some (.width .key)
  | .wVal => some (.width .val)
  | .lenKey => some (.length .key)
  | .lenVal => some (.length .val)
  | .wordbits => none
  | .status => none
  | .err => none
  | .nwKey => none
  | .nwVal => none
  | .pkCount => none
  | .epwKey => none
  | .epwVal => none

/-- The bank of a written register (44_system.md rule R167). -/
def targetBank : CsrTarget → Bank
  | .width b => b
  | .length b => b

/-- The values the target takes (44_system.md rule R167): a width in `1..B`, a length below `2^IDX_BITS`. -/
def targetAccepts (p : Params) (t : CsrTarget) (v : Nat) : Bool :=
  match t with
  | .width _ => decide (1 ≤ v ∧ v ≤ p.wordBits)
  | .length _ => decide (v < 2 ^ p.idxBits)

/-- `csr[c] <- v` (44_system.md rule R167). -/
def State.writeTarget (s : State) (t : CsrTarget) (v : Nat) : State :=
  match t with
  | .width b => s.setBank b { s.bank b with w := v }
  | .length b => s.setBank b { s.bank b with len := v }

/-- The width of bank `b`, where it is one (20_memory.md rule R61). -/
def State.width? (s : State) (b : Bank) : Option Nat :=
  if 1 ≤ (s.bank b).w ∧ (s.bank b).w ≤ s.params.wordBits then some (s.bank b).w else none

/-- `EPW_KEY` and `EPW_VAL`: 0 when the width is not configured, else `EPW(W[b])` (10_state.md rules R34, R35). -/
def State.epwView (s : State) (b : Bank) : Except Fault Nat :=
  if (s.bank b).w = 0 then .ok 0
  else
    match s.width? b with
    | some w => .ok (epw s.params.wordBits w)
    | none => .error .widthUndefined

/-- `value(c)` of 44_system.md rule R166. -/
def State.csrValue (s : State) : Csr → Except Fault Nat
  | .wordbits => .ok s.params.wordBits
  | .status => .ok (statusView s)
  | .err => .ok s.err.toNat
  | .wKey => .ok s.key.w
  | .wVal => .ok s.val.w
  | .lenKey => .ok s.key.len
  | .lenVal => .ok s.val.len
  | .nwKey => .ok s.key.nw
  | .nwVal => .ok s.val.nw
  | .pkCount => .ok s.pkCount
  | .epwKey => s.epwView .key
  | .epwVal => s.epwView .val

/-- Element `i` of bank `b`: one word read, one shift, one mask (42_unpacker.md rules R130, R134; 43_dictmap.md rule
R151). -/
def State.element (s : State) (b : Bank) (i : Nat) : Except Fault Nat :=
  match s.width? b with
  | none => .error .widthUndefined
  | some w =>
    match s.word? b (wordIndex s.params.wordBits w i) with
    | none => .error .unwrittenWord
    | some word => .ok (lane w word (offsetInWord s.params.wordBits w i))

end Sys2Proof.Machine
end

