-- ==== Sys2Proof/Machine/DictMap.lean ====
section
/-! DEFINITION. The dictionary-mapping command `GET` (43_dictmap.md). -/

namespace Sys2Proof.Machine

/-- `GET key` (43_dictmap.md rule R151): two unpacks in series. -/
def execGet (key : Nat) (s : State) : Host.Outcome State Fault Refusal :=
  if s.key.isSealed && s.val.isSealed then
    if key ≥ s.key.len then s.raise .keyOutOfRange
    else
      match s.element .key key with
      | .error f => .fault f
      | .ok idx =>
        if idx ≥ s.val.len then s.raise .indexOutOfRange
        else
          match s.element .val idx with
          | .error f => .fault f
          | .ok v => s.respond v
  else s.raise .notSealed

end Sys2Proof.Machine
end

