-- ==== Sys2Proof/Machine/Packer.lean ====
section
/-! DEFINITION. The bit-packer commands `PKBEGIN`, `PKPUSH`, `PKEND` (41_packer.md). -/

namespace Sys2Proof.Machine

/-- `PKBEGIN bank` (41_packer.md rule R111). -/
def execPkbegin (bank : Bank) (s : State) : Host.Outcome State Fault Refusal :=
  if s.pkActive then s.raise .packerState
  else if (s.bank bank).isSealed then s.raise .bankSealed
  else if (s.bank bank).w = 0 then s.raise .badConfig
  else (s.openPacker bank).respond 0

/-- `PKPUSH value` (41_packer.md rule R112). -/
def execPkpush (value : Nat) (s : State) : Host.Outcome State Fault Refusal :=
  if s.pkActive then
    match s.width? s.pkBank with
    | none => .fault .widthUndefined
    | some w =>
      if value ≥ 2 ^ w then s.abortConstruction.raise .valueOutOfRange
      else if (s.bank s.pkBank).nw = s.cap s.pkBank then s.abortConstruction.raise .capacityExceeded
      else if (s.placeElement w value).cnt = epw s.params.wordBits w then
        match (s.placeElement w value).flushWord with
        | .ok t => t.respond 0
        | .error f => .fault f
      else (s.placeElement w value).respond 0
  else s.raise .packerState

/-- The last part of `PKEND`: the length is the count pushed, the bank is sealed, the packer cleared. -/
def State.sealConstruction (s : State) : State :=
  (s.setBank s.pkBank { s.bank s.pkBank with len := s.pkCount, isSealed := true }).clearPacker

/-- `PKEND` (41_packer.md rule R113). -/
def execPkend (s : State) : Host.Outcome State Fault Refusal :=
  if s.pkActive then
    if s.cnt > 0 then
      match s.flushWord with
      | .ok t => t.sealConstruction.respond 0
      | .error f => .fault f
    else s.sealConstruction.respond 0
  else s.raise .packerState

end Sys2Proof.Machine
end

