-- ==== Sys2Proof/Machine/System.lean ====
section
/-! DEFINITION. The system commands `NOP`, `CSRR`, `CSRW`, `RST` (44_system.md). -/

namespace Sys2Proof.Machine

/-- `NOP` (44_system.md rule R165). -/
def execNop (s : State) : Host.Outcome State Fault Refusal := s.respond 0

/-- `CSRR csr` (44_system.md rule R166). -/
def execCsrr (csr : Fin 16) (s : State) : Host.Outcome State Fault Refusal :=
  match csrOfNumber csr with
  | none => s.raise .illegalCommand
  | some c =>
    match s.csrValue c with
    | .ok v => s.respond v
    | .error f => .fault f

/-- `CSRW csr, value` (44_system.md rule R167, 10_state.md rule R47): the checks in the order of the rule. -/
def execCsrw (csr : Fin 16) (value : Nat) (s : State) : Host.Outcome State Fault Refusal :=
  match csrOfNumber csr with
  | none => s.raise .illegalCommand
  | some c =>
    match csrTarget c with
    | none => s.raise .illegalCommand
    | some t =>
      if s.pkActive then s.raise .packerState
      else if (s.bank (targetBank t)).isSealed then s.raise .bankSealed
      else if targetAccepts s.params t value then (s.writeTarget t value).respond 0
      else s.raise .badConfig

/-- `RST` (44_system.md rule R168): reset, and a response of its own. -/
def execRst (s : State) : Host.Outcome State Fault Refusal := s.clearAll.respond 0

end Sys2Proof.Machine
end

