-- ==== Sys2Proof/Machine/Unpacker.lean ====
section
/-! DEFINITION. The bit-unpacker commands `LDWORD`, `SEAL`, `RDWORD`, `UNPACK` (42_unpacker.md). -/

namespace Sys2Proof.Machine

/-- `LDWORD bank, word` (42_unpacker.md rule R131). -/
def execLdword (bank : Bank) (word : Nat) (s : State) : Host.Outcome State Fault Refusal :=
  if s.pkActive then s.raise .packerState
  else if (s.bank bank).isSealed then s.raise .bankSealed
  else if (s.bank bank).nw = s.cap bank then s.raise .capacityExceeded
  else
    match s.appendWord bank word with
    | .ok t => t.respond 0
    | .error f => .fault f

/-- `SEAL bank` (42_unpacker.md rule R132). -/
def execSealBank (bank : Bank) (s : State) : Host.Outcome State Fault Refusal :=
  if s.pkActive then s.raise .packerState
  else if (s.bank bank).isSealed then s.raise .bankSealed
  else if (s.bank bank).w = 0 then s.raise .badConfig
  else
    match s.width? bank with
    | none => .fault .widthUndefined
    | some w =>
      if (s.bank bank).nw ≠ arrayWords s.params.wordBits w (s.bank bank).len then s.raise .lengthMismatch
      else (s.setBank bank { s.bank bank with isSealed := true }).respond 0

/-- `RDWORD bank, addr` (42_unpacker.md rule R133). -/
def execRdword (bank : Bank) (addr : Nat) (s : State) : Host.Outcome State Fault Refusal :=
  if addr ≥ (s.bank bank).nw then s.raise .addressOutOfRange
  else
    match s.word? bank addr with
    | none => .fault .unwrittenWord
    | some word => s.respond word

/-- `UNPACK bank, index` (42_unpacker.md rule R134). -/
def execUnpack (bank : Bank) (index : Nat) (s : State) : Host.Outcome State Fault Refusal :=
  if (s.bank bank).isSealed then
    if index ≥ (s.bank bank).len then s.raise .indexOutOfRange
    else
      match s.element bank index with
      | .ok v => s.respond v
      | .error f => .fault f
  else s.raise .notSealed

end Sys2Proof.Machine
end

