-- ==== Sys2Proof/Machine/Dispatch.lean ====
section
/-! DEFINITION. One arm per command (30_encoding.md rule R93). -/

namespace Sys2Proof.Machine

def exec (i : Instr) (s : State) : Host.Outcome State Fault Refusal :=
  match i with
  | .nop => Sys2Proof.Machine.execNop s
  | .csrr csr => Sys2Proof.Machine.execCsrr csr s
  | .csrw csr value => Sys2Proof.Machine.execCsrw csr value s
  | .pkbegin bank => Sys2Proof.Machine.execPkbegin bank s
  | .pkpush value => Sys2Proof.Machine.execPkpush value s
  | .pkend => Sys2Proof.Machine.execPkend s
  | .ldword bank word => Sys2Proof.Machine.execLdword bank word s
  | .sealBank bank => Sys2Proof.Machine.execSealBank bank s
  | .rdword bank addr => Sys2Proof.Machine.execRdword bank addr s
  | .unpack bank index => Sys2Proof.Machine.execUnpack bank index s
  | .get key => Sys2Proof.Machine.execGet key s
  | .rst => Sys2Proof.Machine.execRst s

end Sys2Proof.Machine
end

