-- ==== Sys2Proof/Machine/Step.lean ====
section
/-! DEFINITION. One step: the block takes the next event at its inputs and executes it as one atomic step
(20_memory.md rule R80, 30_encoding.md rule R98, 70_reset_and_hazards.md rule R210). -/

namespace Sys2Proof.Machine

/-- One step. A configuration that breaks 00_scope.md rule R6 is not a block (93_implementation_defined.md U18). With
nothing presented the block waits and nothing changes (70_reset_and_hazards.md rule R210). -/
def step (s : State) : Host.Outcome State Fault Refusal :=
  if s.params.Legal then
    match s.takeEvent with
    | none => .next s
    | some (.reset lost, t) => applyReset lost t
    | some (.command bits, t) =>
      match decode s.params bits with
      | .instr i => exec i t
      | .reservedOp op => rejectReserved op t
  else .refused .notABlock

/-- The state with the command of an opcode table row, its operand fields 0, presented next (log entry 3). -/
def State.withFetchWord (s : State) (_nbits w : Nat) : State :=
  { s with port := .command (tableCommand s.params w) :: s.port }

end Sys2Proof.Machine
end

