-- ==== Sys2Proof/Machine/Pseudo.lean ====
section
/-! DEFINITION. Sequences of commands and of steps, the pseudo-commands and the assembler notation
(30_encoding.md rules R100 to R103; 10_state.md rule R40). None of it is hardware: it is what a host sends. -/

namespace Sys2Proof.Machine

/-- Executes commands one after another, whatever their responses are. -/
def runAll : List Instr → State → Host.Outcome State Fault Refusal
  | [], s => .next s
  | i :: rest, s =>
    match exec i s with
    | .next t => runAll rest t
    | .fault f => .fault f
    | .refused r => .refused r

/-- `n` steps: the block takes what is presented, one event after another (20_memory.md rule R80). -/
def runSteps : Nat → State → Host.Outcome State Fault Refusal
  | 0, s => .next s
  | n + 1, s =>
    match step s with
    | .next t => runSteps n t
    | .fault f => .fault f
    | .refused r => .refused r

/-- The status of the last response is success. -/
def State.lastOk (s : State) : Bool :=
  match s.responses with
  | [] => true
  | r :: _ => r.status == 0#8

/-- Executes a pseudo-command's expansion: it stops at the first command that fails (rule R101). -/
def runExpansion : List Instr → State → Host.Outcome State Fault Refusal
  | [], s => .next s
  | i :: rest, s =>
    match exec i s with
    | .next t => if t.lastOk then runExpansion rest t else .next t
    | .fault f => .fault f
    | .refused r => .refused r

/-- The number of the width register of a bank (10_state.md rule R23). -/
def widthCsr : Bank → Fin 16
  | .key => 4
  | .val => 5

/-- The number of the length register of a bank (10_state.md rule R23). -/
def lengthCsr : Bank → Fin 16
  | .key => 6
  | .val => 7

/-- `PKBEGIN bank`, one `PKPUSH` per value, `PKEND` (rule R101). -/
def construction (b : Bank) (values : List Nat) : List Instr :=
  .pkbegin b :: (values.map .pkpush ++ [.pkend])

/-- `PACK bank, W, [v0, ...]` (rule R101). -/
def packCommands (b : Bank) (w : Nat) (values : List Nat) : List Instr :=
  .csrw (widthCsr b) w :: construction b values

/-- `LOAD bank, W, n, [w0, ...]` (rule R102). -/
def loadCommands (b : Bank) (w n : Nat) (words : List Nat) : List Instr :=
  .csrw (widthCsr b) w :: .csrw (lengthCsr b) n :: (words.map (.ldword b) ++ [.sealBank b])

/-- `BUILD W_i, W_v, [k0, ...], [d0, ...]` (rule R103). -/
def buildCommands (wi wv : Nat) (keyIndices values : List Nat) : List Instr :=
  packCommands .key wi keyIndices ++ packCommands .val wv values

/-! ### Assembler notation (rule R100) -/

/-- The name of a bank. -/
def bankText : Bank → String
  | .key => "KEY"
  | .val => "VAL"

/-- The name of a control register, or its number where it has none. -/
def csrText (n : Fin 16) : String :=
  match csrOfNumber n with
  | some .wordbits => "WORDBITS"
  | some .status => "STATUS"
  | some .err => "ERR"
  | some .wKey => "W_KEY"
  | some .wVal => "W_VAL"
  | some .lenKey => "LEN_KEY"
  | some .lenVal => "LEN_VAL"
  | some .nwKey => "NW_KEY"
  | some .nwVal => "NW_VAL"
  | some .pkCount => "PK_COUNT"
  | some .epwKey => "EPW_KEY"
  | some .epwVal => "EPW_VAL"
  | none => toString n.val

/-- A command in assembler notation, numbers in decimal. -/
def assemblyText : Instr → String
  | .nop => "NOP"
  | .csrr c => "CSRR " ++ csrText c
  | .csrw c v => "CSRW " ++ csrText c ++ ", " ++ toString v
  | .pkbegin b => "PKBEGIN " ++ bankText b
  | .pkpush v => "PKPUSH " ++ toString v
  | .pkend => "PKEND"
  | .ldword b v => "LDWORD " ++ bankText b ++ ", " ++ toString v
  | .sealBank b => "SEAL " ++ bankText b
  | .rdword b a => "RDWORD " ++ bankText b ++ ", " ++ toString a
  | .unpack b i => "UNPACK " ++ bankText b ++ ", " ++ toString i
  | .get k => "GET " ++ toString k
  | .rst => "RST"

end Sys2Proof.Machine
end

