-- ==== Sys2Proof/Safety.lean ====
section
/-! DEFINITION. The terms claims are stated in: the invariant of 10_state.md rule R41, what a command's response does to
the state, and which commands only read (20_memory.md rule R81). -/

namespace Sys2Proof.Machine

/-- The next state of an outcome, if it is one. -/
def nextOf : Host.Outcome State Fault Refusal → Option State
  | .next s => some s
  | .fault _ => none
  | .refused _ => none

/-- The state after the successful response `(0, v)` (30_encoding.md rule R91). -/
def State.ok (s : State) (v : Nat) : State := { s with responses := ⟨0#8, v⟩ :: s.responses }

/-- The state after an error with code `n`: the response `(n, 0)`, bit `n` of `ERR` set, nothing else changed
(60_exceptions.md rule R190). -/
def State.failed (s : State) (n : Nat) : State :=
  { s with err := s.err ||| (1#12 <<< n), responses := ⟨BitVec.ofNat 8 n, 0⟩ :: s.responses }

/-- `s` after an aborted construction: the bank being filled emptied, the packer cleared (41_packer.md rule R112). -/
def State.aborted (s : State) : State :=
  { s.setBank s.pkBank { s.bank s.pkBank with nw := 0, mem := [] } with
    pkActive := false, pkBank := .key, pkCount := 0, acc := 0, cnt := 0 }

/-- `s` with every piece of the block's state at its reset value (10_state.md rule R45). -/
def State.afterReset (s : State) : State :=
  { params := s.params
    key := ⟨0, 0, 0, false, []⟩
    val := ⟨0, 0, 0, false, []⟩
    pkCount := 0
    err := 0#12
    pkActive := false
    pkBank := .key
    acc := 0
    cnt := 0
    port := s.port
    responses := s.responses }

/-- The reserved op bytes, range by range as 30_encoding.md rule R97 lists them. -/
abbrev ReservedByte (op : Nat) : Prop :=
  (0x01 ≤ op ∧ op ≤ 0x0F) ∨ (0x32 ≤ op ∧ op ≤ 0x3F) ∨ (0x41 ≤ op ∧ op ≤ 0x4F) ∨ (0x51 ≤ op ∧ op ≤ 0x5F) ∨
    (0x62 ≤ op ∧ op ≤ 0x6F) ∨ (0x72 ≤ op ∧ op ≤ 0x7F) ∨ (0x82 ≤ op ∧ op ≤ 0x8F) ∨ (0x92 ≤ op ∧ op ≤ 0x9F) ∨
    (0xA1 ≤ op ∧ op ≤ 0xAF) ∨ (0xB0 ≤ op ∧ op ≤ 0xEF) ∨ (0xF1 ≤ op ∧ op ≤ 0xFF)

/-- `s` with `n` successful responses `(0, 0)` delivered since `s0`. -/
def State.AllOkSince (s s0 : State) (n : Nat) : Prop :=
  s.responses = List.replicate n ⟨0#8, 0⟩ ++ s0.responses

/-- The commands that only read (20_memory.md rule R81). -/
def readsOnly : Instr → Bool
  | .nop => true
  | .csrr _ => true
  | .rdword _ _ => true
  | .unpack _ _ => true
  | .get _ => true
  | .csrw _ _ => false
  | .pkbegin _ => false
  | .pkpush _ => false
  | .pkend => false
  | .ldword _ _ => false
  | .sealBank _ => false
  | .rst => false

/-- Both banks' memories are in canonical form. -/
def State.MemWf (s : State) : Prop := ∀ b, (s.bank b).mem.wf = true

/-- What holds of one bank of capacity `cap` in every state of the block: the value sets of 10_state.md rules R23, R31;
the words listed are exactly words `0 .. NW-1` (rule R31, 20_memory.md rule R79) and each is a word; and rule R41 (a), (d).
-/
structure BankState.Inv (p : Params) (cap : Nat) (x : BankState) : Prop where
  width_le : x.w ≤ p.wordBits
  len_lt : x.len < 2 ^ p.idxBits
  nw_le : x.nw ≤ cap
  addresses : x.mem.map Prod.fst = List.range x.nw
  words : ∀ c ∈ x.mem, c.2 < 2 ^ p.wordBits
  closed : x.isSealed = true → 1 ≤ x.w ∧ x.nw = ceilDiv x.len (epw p.wordBits x.w)

/-- While no construction is open the packer is clear (10_state.md rule R41 (b)). -/
structure State.PackerClear (s : State) : Prop where
  bank : s.pkBank = .key
  acc : s.acc = 0
  cnt : s.cnt = 0
  count : s.pkCount = 0

/-- While a construction is open (10_state.md rule R41 (c)). -/
structure State.PackerFilling (s : State) : Prop where
  opened : (s.bank s.pkBank).isSealed = false
  width_pos : 1 ≤ (s.bank s.pkBank).w
  width_le : (s.bank s.pkBank).w ≤ s.params.wordBits
  cnt_lt : s.cnt < epw s.params.wordBits (s.bank s.pkBank).w
  acc_lt : s.acc < 2 ^ (s.cnt * (s.bank s.pkBank).w)
  count : s.pkCount = (s.bank s.pkBank).nw * epw s.params.wordBits (s.bank s.pkBank).w + s.cnt
  room : 0 < s.cnt → (s.bank s.pkBank).nw < s.cap s.pkBank

/-- The invariant of the block: legal parameters (00_scope.md rule R6) and 10_state.md rule R41 (a) to (d) and (f). -/
structure State.Inv (s : State) : Prop where
  legal : s.params.Legal
  key : s.key.Inv s.params s.params.keyWords
  val : s.val.Inv s.params s.params.valWords
  idle : s.pkActive = false → s.PackerClear
  filling : s.pkActive = true → s.PackerFilling
  err : s.err.getLsbD 0 = false

/-- Bank `b` is open and no construction is open on either bank: what `PACK` and `LOAD` start from
(70_reset_and_hazards.md rule R212). -/
structure State.ReadyFor (s : State) (b : Bank) : Prop where
  inv : s.Inv
  idle : s.pkActive = false
  opened : (s.bank b).isSealed = false

/-- The mapping held in the two banks: the six values of 43_dictmap.md rule R150. -/
def State.mapping (s : State) : Mapping where
  keyWords := s.key.mem.map Prod.snd
  wi := s.key.w
  n := s.key.len
  valWords := s.val.mem.map Prod.snd
  wv := s.val.w
  k := s.val.len

/-- `value(c)` for each control register, as 44_system.md rule R166 lists it by number. -/
def State.registerTable (s : State) : List (Fin 16 × Nat) :=
  [(0, s.params.wordBits),
    (1, (if s.key.isSealed then 1 else 0) + (if s.val.isSealed then 2 else 0) + (if s.pkActive then 4 else 0) +
      (if s.pkBank = .val then 8 else 0)),
    (2, s.err.toNat),
    (4, s.key.w), (5, s.val.w), (6, s.key.len), (7, s.val.len), (8, s.key.nw), (9, s.val.nw),
    (10, s.pkCount),
    (11, if s.key.w = 0 then 0 else epw s.params.wordBits s.key.w),
    (12, if s.val.w = 0 then 0 else epw s.params.wordBits s.val.w)]

/-- The transitions of 10_state.md rule R40: the state of bank `b` after command `i`, given its state before and whether
the response was a success. -/
def lifecycleAfter (b : Bank) (i : Instr) (success : Bool) : Lifecycle → Lifecycle
  | .opened =>
    if i = .pkbegin b ∧ success then .packing
    else if i = .sealBank b ∧ success then .closed
    else .opened
  | .packing =>
    match i with
    | .pkpush _ => if success then .packing else .opened
    | .pkend => .closed
    | .rst => .opened
    | .nop => .packing
    | .csrr _ => .packing
    | .csrw _ _ => .packing
    | .pkbegin _ => .packing
    | .ldword _ _ => .packing
    | .sealBank _ => .packing
    | .rdword _ _ => .packing
    | .unpack _ _ => .packing
    | .get _ => .packing
  | .closed => if i = .rst then .opened else .closed

end Sys2Proof.Machine
end

