-- ==== Sys2Proof/Certificates/Slice0/Obligations.lean ====
section
/-! DEFINITION. The statements for the provers. Each docstring names the rule of spec/ it formalises. -/

open Sys2Proof Sys2Proof.Machine

/-! ### Encoding (30_encoding.md) -/

/-- Decoding the encoding of a command whose operands fit gives the command back, for all twelve commands and all
parameters (rules R90, R93, R98, R100). -/
def Obligations.DecodeOfEncodeIsTheCommand : Prop :=
  ∀ (p : Params) (i : Instr), i.WellFormed p → decode p (encode p i) = .instr i

/-- Whatever bits are presented, the operands of the command decoded fit their fields (rules R90, R106). -/
def Obligations.DecodedOperandsFitTheirFields : Prop :=
  ∀ (p : Params) (bits : Nat) (i : Instr), decode p bits = .instr i → i.WellFormed p

/-- Rule R98: the decoder from the op byte, each of the 47 defined bytes to its command and every other byte to none. -/
def Obligations.DecoderFollowsTheOpcodeMap : Prop :=
  ∀ idx data : Nat,
    decodeCommand ⟨0x00, idx, data⟩ = .instr .nop ∧
    (∀ c : Fin 16, decodeCommand ⟨0x10 + c.val, idx, data⟩ = .instr (.csrr c) ∧
      decodeCommand ⟨0x20 + c.val, idx, data⟩ = .instr (.csrw c data)) ∧
    (∀ (b : Bank) (n : Nat), (b = .key ∧ n = 0) ∨ (b = .val ∧ n = 1) →
      decodeCommand ⟨0x30 + n, idx, data⟩ = .instr (.pkbegin b) ∧
      decodeCommand ⟨0x60 + n, idx, data⟩ = .instr (.ldword b data) ∧
      decodeCommand ⟨0x70 + n, idx, data⟩ = .instr (.sealBank b) ∧
      decodeCommand ⟨0x80 + n, idx, data⟩ = .instr (.rdword b idx) ∧
      decodeCommand ⟨0x90 + n, idx, data⟩ = .instr (.unpack b idx)) ∧
    decodeCommand ⟨0x40, idx, data⟩ = .instr (.pkpush data) ∧
    decodeCommand ⟨0x50, idx, data⟩ = .instr .pkend ∧
    decodeCommand ⟨0xA0, idx, data⟩ = .instr (.get idx) ∧
    decodeCommand ⟨0xF0, idx, data⟩ = .instr .rst ∧
    (∀ op, ReservedByte op → decodeCommand ⟨op, idx, data⟩ = .reservedOp op)

/-- Rule R97: a command with a reserved op byte raises `IllegalCommand` and nothing else changes; every other byte
decodes; 209 bytes are reserved and 47 are not. -/
def Obligations.ReservedOpBytesRaiseIllegalCommand : Prop :=
  (∀ (s : State) (bits : Nat) (rest : List HostEvent), s.params.Legal → s.port = .command bits :: rest →
    ReservedByte (bits / 2 ^ (s.params.wordBits + s.params.idxBits) % 256) →
    step s = .next (State.failed { s with port := rest } 4)) ∧
  (∀ c : Command, c.op < 256 → ¬ ReservedByte c.op → ∃ i, decodeCommand c = .instr i) ∧
  ((List.range 256).filter fun op => decide (ReservedByte op)).length = 209 ∧
  ((List.range 256).filter fun op => decide (¬ ReservedByte op)).length = 47

/-- Rule R96: the fields a command does not read do not change what it decodes to. -/
def Obligations.UnreadFieldsAreIgnored : Prop :=
  ∀ op idx data idx' data' : Nat,
    (op ∈ [0x00, 0x50, 0xF0, 0x30, 0x31, 0x70, 0x71] ∨ (0x10 ≤ op ∧ op ≤ 0x1F) →
      decodeCommand ⟨op, idx, data⟩ = decodeCommand ⟨op, idx', data'⟩) ∧
    (op ∈ [0x40, 0x60, 0x61] ∨ (0x20 ≤ op ∧ op ≤ 0x2F) →
      decodeCommand ⟨op, idx, data⟩ = decodeCommand ⟨op, idx', data⟩) ∧
    (op ∈ [0x80, 0x81, 0x90, 0x91, 0xA0] →
      decodeCommand ⟨op, idx, data⟩ = decodeCommand ⟨op, idx, data'⟩)

/-- Words the spec writes out decode to the commands it says (95_test_vectors.md sections 2.4 to 2.8). -/
def Obligations.SpecEncodingsDecode : Prop :=
  decode Config.reference (0xA00000007B * 2 ^ 256) = .instr (.get 123) ∧
  decode Config.reference (0x2400000000 * 2 ^ 256 + 4) = .instr (.csrw 4 4) ∧
  decode Config.reference (0x4000000000 * 2 ^ 256 + 0x10) = .instr (.pkpush 16) ∧
  decode Config.reference (0x6100000000 * 2 ^ 256 + 0x240801C060140400C0200400) =
    .instr (.ldword .val 0x240801C060140400C0200400) ∧
  decode Config.reference (0x9100000009 * 2 ^ 256) = .instr (.unpack .val 9) ∧
  decode Config.reference (0x32DEADBEEF * 2 ^ 256 + 0x1234) = .reservedOp 0x32

/-! ### The step -/

/-- A step takes the command presented next and is `exec` of the command its bits decode to
(20_memory.md rule R80, 30_encoding.md rule R98). -/
def Obligations.StepRunsTheDecodedCommand : Prop :=
  ∀ (s : State) (bits : Nat) (rest : List HostEvent) (i : Instr), s.params.Legal → s.port = .command bits :: rest →
    decode s.params bits = .instr i → step s = exec i { s with port := rest }

/-- Reset from outside gives every piece of state its reset value with no response and loses the commands it cuts off;
`RST` has the same effect and its own response; with nothing presented the block waits (derived from
70_reset_and_hazards.md rule R210). Two clauses are the model's choice: that reset is one event which carries the
commands it cuts off (log entry 8), and that a step with an empty port changes nothing, in every state and not only
after reset (log entry 3). -/
def Obligations.ExternalResetAndWaiting : Prop :=
  (∀ (s : State) (lost : List Nat) (rest : List HostEvent), s.params.Legal → s.port = .reset lost :: rest →
    step s = .next (State.afterReset { s with port := rest })) ∧
  (∀ s : State, exec .rst s = .next (s.afterReset.ok 0)) ∧
  (∀ s : State, s.params.Legal → s.port = [] → step s = .next s)

/-- Parameters that break 00_scope.md rule R6 are no block: the step is refused by name (93_implementation_defined.md
U18). -/
def Obligations.IllegalParametersAreRefused : Prop :=
  ∀ s : State, ¬ s.params.Legal → step s = .refused .notABlock

/-! ### Reset and the invariant (10_state.md) -/

/-- Rule R45: the value of every piece of state after reset, whatever the parameters, after a reset applied from outside,
and after `RST`. -/
def Obligations.ResetValues : Prop :=
  ∀ s t : State, (∃ p, s = State.init p) ∨ s = State.reset ∨ exec .rst t = .next s ∨
      (∃ lost rest, t.port = .reset lost :: rest ∧ step t = .next s) →
    s.key.w = 0 ∧ s.val.w = 0 ∧ s.key.len = 0 ∧ s.val.len = 0 ∧ s.key.nw = 0 ∧ s.val.nw = 0 ∧
    s.pkCount = 0 ∧ s.err = 0#12 ∧ s.key.isSealed = false ∧ s.val.isSealed = false ∧
    s.pkActive = false ∧ s.pkBank = .key ∧ s.acc = 0 ∧ s.cnt = 0 ∧
    (∀ b a, s.word? b a = none) ∧
    s.csrValue .wordbits = .ok s.params.wordBits ∧ s.csrValue .status = .ok 0 ∧
    s.csrValue .epwKey = .ok 0 ∧ s.csrValue .epwVal = .ok 0

/-- The invariant of rule R41 holds after reset, whatever the legal parameters; those of `State.reset` are legal. -/
def Obligations.ResetMeetsTheInvariant : Prop :=
  (∀ p : Params, p.Legal → (State.init p).Inv) ∧ State.reset.Inv

/-- Every step keeps the invariant of rule R41 (a) to (d) and (f). -/
def Obligations.StepKeepsTheInvariant : Prop :=
  ∀ s t : State, s.Inv → step s = .next t → t.Inv

/-- From a state of the invariant no step stops (70_reset_and_hazards.md rule R221; 93_implementation_defined.md, end of
section 2: the rules give exactly one next state for every command value). -/
def Obligations.StepAlwaysAnswers : Prop :=
  ∀ s : State, s.Inv → ∃ t, step s = .next t

/-- Every step keeps both memories in canonical form, from every state where they are. The form, a list of word address
and word pairs with rising addresses, is the model's choice (log entry 2); that words are written in address order and
discarded whole is 20_memory.md rules R77 and R79. -/
def Obligations.StepKeepsMemoryCanonical : Prop :=
  ∀ s t : State, s.MemWf → step s = .next t → t.MemWf

/-- No step changes the build parameters (rule R42). -/
def Obligations.StepKeepsTheParameters : Prop :=
  ∀ s t : State, step s = .next t → t.params = s.params

/-- In a state of the invariant every register fits the width rule R22 gives it, so no counter overflows (rule R33). -/
def Obligations.RegistersFitTheirWidths : Prop :=
  ∀ s : State, s.Inv →
    (∀ b, (s.bank b).w < 2 ^ widthBits s.params.wordBits ∧ (s.bank b).len < 2 ^ s.params.idxBits ∧
      (s.bank b).nw < 2 ^ s.params.idxBits) ∧
    s.pkCount < 2 ^ s.params.idxBits ∧ s.acc < 2 ^ s.params.wordBits ∧ s.cnt < 2 ^ widthBits s.params.wordBits

/-- 30_encoding.md rule R104: every command delivers one response, its status is 0 or one of 1 to 11, its data fit `B`
bits and are 0 on an error (rule R91). -/
def Obligations.EveryResponseIsWellFormed : Prop :=
  (∀ (i : Instr) (s t : State), exec i s = .next t →
    ∃ r, t.responses = r :: s.responses ∧ r.status.toNat ≤ 11 ∧ r.data < 2 ^ s.params.wordBits ∧
      (r.status ≠ 0#8 → r.data = 0)) ∧
  (∀ (op : Nat) (s : State), rejectReserved op s = .next (s.failed 4))

/-- 70_reset_and_hazards.md rule R211: what the first commands after reset answer, for all legal parameters. -/
def Obligations.FirstCommandsAfterReset : Prop :=
  ∀ (p : Params) (s : State), p.Legal → s = State.init p →
    exec (.csrr 0) s = .next (s.ok p.wordBits) ∧
    (∀ c ∈ [1, 2, 4, 5, 6, 7, 8, 9, 10, 11, 12], exec (.csrr c) s = .next (s.ok 0)) ∧
    (∀ k, exec (.get k) s = .next (s.failed 6)) ∧
    (∀ b i, exec (.unpack b i) s = .next (s.failed 6)) ∧
    (∀ b a, exec (.rdword b a) s = .next (s.failed 11)) ∧
    (∀ v, exec (.pkpush v) s = .next (s.failed 7)) ∧
    exec .pkend s = .next (s.failed 7) ∧
    (∀ b, exec (.pkbegin b) s = .next (s.failed 8)) ∧
    (∀ b, exec (.sealBank b) s = .next (s.failed 8)) ∧
    (∀ b w, 0 < s.cap b → w < 2 ^ p.wordBits →
      exec (.ldword b w) s = .next (State.ok (s.setBank b ⟨0, 0, 1, false, [(0, w)]⟩) 0)) ∧
    (∀ b w, s.cap b = 0 → exec (.ldword b w) s = .next (s.failed 9))

/-! ### System commands (44_system.md) -/

/-- Rule R165: `NOP` responds `ok 0` and changes no state. -/
def Obligations.NopDoesNothing : Prop :=
  (∀ idx data, decodeCommand ⟨0x00, idx, data⟩ = .instr .nop) ∧
  ∀ s : State, exec .nop s = .next (s.ok 0)

/-- Rule R166: `CSRR` returns the register's value and changes no state; a number that names no register raises
`IllegalCommand`. The value is given where it fits the response (00_scope.md rule R10); see
`Obligations.CsrrOfAWideValueStillAnswers` for the other case. -/
def Obligations.CsrrReadsTheRegister : Prop :=
  (∀ (c : Fin 16) (idx data : Nat), decodeCommand ⟨0x10 + c.val, idx, data⟩ = .instr (.csrr c)) ∧
  (∀ (s : State) (c : Fin 16), c ∈ [3, 13, 14, 15] → exec (.csrr c) s = .next (s.failed 4)) ∧
  (∀ (s : State) (c : Fin 16) (v : Nat), s.key.w ≤ s.params.wordBits → s.val.w ≤ s.params.wordBits →
    (c, v) ∈ s.registerTable → v < 2 ^ s.params.wordBits → exec (.csrr c) s = .next (s.ok v))

/-- A register value that does not fit the `B`-bit data field is still answered with success, some `B`-bit data and no
other change (30_encoding.md rule R91). The model's choice, log entry 5: the data are a free value, and the statement
holds for every value of it. -/
def Obligations.CsrrOfAWideValueStillAnswers : Prop :=
  ∀ (s : State) (c : Fin 16) (v : Nat), s.key.w ≤ s.params.wordBits → s.val.w ≤ s.params.wordBits →
    (c, v) ∈ s.registerTable → 2 ^ s.params.wordBits ≤ v →
    ∃ d, d < 2 ^ s.params.wordBits ∧ exec (.csrr c) s = .next (s.ok d)

/-- Rule R167: `CSRW`, every check in its order and the write. -/
def Obligations.CsrwWritesTheRegister : Prop :=
  (∀ (c : Fin 16) (idx data : Nat), decodeCommand ⟨0x20 + c.val, idx, data⟩ = .instr (.csrw c data)) ∧
  (∀ (s : State) (c : Fin 16) (v : Nat), c ∈ [3, 13, 14, 15] ∨ c ∈ [0, 1, 2, 8, 9, 10, 11, 12] →
    exec (.csrw c v) s = .next (s.failed 4)) ∧
  (∀ (s : State) (b : Bank) (cw cl c : Fin 16) (v : Nat), (b = .key ∧ cw = 4 ∧ cl = 6) ∨ (b = .val ∧ cw = 5 ∧ cl = 7) →
    (c = cw ∨ c = cl → s.pkActive = true → exec (.csrw c v) s = .next (s.failed 7)) ∧
    (c = cw ∨ c = cl → s.pkActive = false → (s.bank b).isSealed = true →
      exec (.csrw c v) s = .next (s.failed 5)) ∧
    (s.pkActive = false → (s.bank b).isSealed = false → v = 0 ∨ s.params.wordBits < v →
      exec (.csrw cw v) s = .next (s.failed 8)) ∧
    (s.pkActive = false → (s.bank b).isSealed = false → 2 ^ s.params.idxBits ≤ v →
      exec (.csrw cl v) s = .next (s.failed 8)) ∧
    (s.pkActive = false → (s.bank b).isSealed = false → 1 ≤ v → v ≤ s.params.wordBits →
      exec (.csrw cw v) s = .next (State.ok (s.setBank b { s.bank b with w := v }) 0)) ∧
    (s.pkActive = false → (s.bank b).isSealed = false → v < 2 ^ s.params.idxBits →
      exec (.csrw cl v) s = .next (State.ok (s.setBank b { s.bank b with len := v }) 0)))

/-- Rule R168: `RST` gives every piece of state its reset value, in every state, and responds `ok 0`. -/
def Obligations.RstReturnsToReset : Prop :=
  (∀ idx data, decodeCommand ⟨0xF0, idx, data⟩ = .instr .rst) ∧
  ∀ s : State, exec .rst s = .next (s.afterReset.ok 0)

/-! ### Packer (41_packer.md) -/

/-- Rule R111: `PKBEGIN`, every check in its order and the assignments. -/
def Obligations.PkbeginOpensAConstruction : Prop :=
  (∀ idx data, decodeCommand ⟨0x30, idx, data⟩ = .instr (.pkbegin .key) ∧
    decodeCommand ⟨0x31, idx, data⟩ = .instr (.pkbegin .val)) ∧
  ∀ (s : State) (b : Bank),
    (s.pkActive = true → exec (.pkbegin b) s = .next (s.failed 7)) ∧
    (s.pkActive = false → (s.bank b).isSealed = true → exec (.pkbegin b) s = .next (s.failed 5)) ∧
    (s.pkActive = false → (s.bank b).isSealed = false → (s.bank b).w = 0 →
      exec (.pkbegin b) s = .next (s.failed 8)) ∧
    (s.pkActive = false → (s.bank b).isSealed = false → (s.bank b).w ≠ 0 →
      exec (.pkbegin b) s = .next (State.ok
        { s.setBank b { s.bank b with nw := 0, mem := [] } with
          pkActive := true, pkBank := b, pkCount := 0, acc := 0, cnt := 0 } 0))

/-- Rule R112: `PKPUSH`, every check in its order, the two aborts, the placement of an element and the word written when
it is complete. -/
def Obligations.PkpushPlacesOneElement : Prop :=
  (∀ idx data, decodeCommand ⟨0x40, idx, data⟩ = .instr (.pkpush data)) ∧
  (∀ (s : State) (v : Nat), s.pkActive = false → exec (.pkpush v) s = .next (s.failed 7)) ∧
  (∀ (s : State) (v w : Nat) (b : Bank), s.Inv → s.pkActive = true → b = s.pkBank → w = (s.bank b).w →
    (2 ^ w ≤ v → exec (.pkpush v) s = .next (s.aborted.failed 1)) ∧
    (v < 2 ^ w → (s.bank b).nw = s.cap b → exec (.pkpush v) s = .next (s.aborted.failed 9)) ∧
    (v < 2 ^ w → (s.bank b).nw ≠ s.cap b → s.cnt + 1 ≠ epw s.params.wordBits w →
      exec (.pkpush v) s = .next (State.ok
        { s with acc := s.acc ||| (v <<< (s.cnt * w)), cnt := s.cnt + 1, pkCount := s.pkCount + 1 } 0)) ∧
    (v < 2 ^ w → (s.bank b).nw ≠ s.cap b → s.cnt + 1 = epw s.params.wordBits w →
      exec (.pkpush v) s = .next (State.ok
        { s.setBank b { s.bank b with
            nw := (s.bank b).nw + 1
            mem := (s.bank b).mem ++ [((s.bank b).nw, s.acc ||| (v <<< (s.cnt * w)))] } with
          acc := 0, cnt := 0, pkCount := s.pkCount + 1 } 0)))

/-- Rule R113: `PKEND` flushes a partial word, sets the length, seals the bank and clears the packer; afterwards the
number of words is the number an array of that length has. -/
def Obligations.PkendSealsTheBank : Prop :=
  (∀ idx data, decodeCommand ⟨0x50, idx, data⟩ = .instr .pkend) ∧
  (∀ s : State, s.pkActive = false → exec .pkend s = .next (s.failed 7)) ∧
  (∀ (s : State) (b : Bank), s.Inv → s.pkActive = true → b = s.pkBank →
    (s.cnt = 0 → exec .pkend s = .next (State.ok
      { s.setBank b { s.bank b with len := s.pkCount, isSealed := true } with
        pkActive := false, pkBank := .key, pkCount := 0, acc := 0, cnt := 0 } 0)) ∧
    (0 < s.cnt → exec .pkend s = .next (State.ok
      { s.setBank b { s.bank b with
          len := s.pkCount
          isSealed := true
          nw := (s.bank b).nw + 1
          mem := (s.bank b).mem ++ [((s.bank b).nw, s.acc)] } with
        pkActive := false, pkBank := .key, pkCount := 0, acc := 0, cnt := 0 } 0)) ∧
    (∀ t, exec .pkend s = .next t →
      (t.bank b).nw = ceilDiv (t.bank b).len (epw t.params.wordBits (t.bank b).w)))

/-! ### Unpacker (42_unpacker.md) -/

/-- Rule R131: `LDWORD`, every check in its order and the word appended. -/
def Obligations.LdwordAppendsOneWord : Prop :=
  (∀ idx data, decodeCommand ⟨0x60, idx, data⟩ = .instr (.ldword .key data) ∧
    decodeCommand ⟨0x61, idx, data⟩ = .instr (.ldword .val data)) ∧
  ∀ (s : State) (b : Bank) (v : Nat),
    (s.pkActive = true → exec (.ldword b v) s = .next (s.failed 7)) ∧
    (s.pkActive = false → (s.bank b).isSealed = true → exec (.ldword b v) s = .next (s.failed 5)) ∧
    (s.pkActive = false → (s.bank b).isSealed = false → (s.bank b).nw = s.cap b →
      exec (.ldword b v) s = .next (s.failed 9)) ∧
    (s.Inv → s.pkActive = false → (s.bank b).isSealed = false → (s.bank b).nw ≠ s.cap b →
      v < 2 ^ s.params.wordBits →
      exec (.ldword b v) s = .next (State.ok
        (s.setBank b { s.bank b with
          nw := (s.bank b).nw + 1
          mem := (s.bank b).mem ++ [((s.bank b).nw, v)] }) 0))

/-- Rule R132: `SEAL`, every check in its order and the flag set. -/
def Obligations.SealChecksTheLength : Prop :=
  (∀ idx data, decodeCommand ⟨0x70, idx, data⟩ = .instr (.sealBank .key) ∧
    decodeCommand ⟨0x71, idx, data⟩ = .instr (.sealBank .val)) ∧
  ∀ (s : State) (b : Bank),
    (s.pkActive = true → exec (.sealBank b) s = .next (s.failed 7)) ∧
    (s.pkActive = false → (s.bank b).isSealed = true → exec (.sealBank b) s = .next (s.failed 5)) ∧
    (s.pkActive = false → (s.bank b).isSealed = false → (s.bank b).w = 0 →
      exec (.sealBank b) s = .next (s.failed 8)) ∧
    (s.pkActive = false → (s.bank b).isSealed = false → 1 ≤ (s.bank b).w → (s.bank b).w ≤ s.params.wordBits →
      (s.bank b).nw ≠ ceilDiv (s.bank b).len (epw s.params.wordBits (s.bank b).w) →
      exec (.sealBank b) s = .next (s.failed 10)) ∧
    (s.pkActive = false → (s.bank b).isSealed = false → 1 ≤ (s.bank b).w → (s.bank b).w ≤ s.params.wordBits →
      (s.bank b).nw = ceilDiv (s.bank b).len (epw s.params.wordBits (s.bank b).w) →
      exec (.sealBank b) s = .next (State.ok (s.setBank b { s.bank b with isSealed := true }) 0))

/-- Rule R133: `RDWORD` returns the word listed at its address, in every lifecycle state, and changes no state. -/
def Obligations.RdwordReadsOneWord : Prop :=
  (∀ idx data, decodeCommand ⟨0x80, idx, data⟩ = .instr (.rdword .key idx) ∧
    decodeCommand ⟨0x81, idx, data⟩ = .instr (.rdword .val idx)) ∧
  (∀ (s : State) (b : Bank) (a : Nat), (s.bank b).nw ≤ a → exec (.rdword b a) s = .next (s.failed 11)) ∧
  (∀ (s : State) (b : Bank) (a : Nat), s.Inv → a < (s.bank b).nw →
    ∃ word, (a, word) ∈ (s.bank b).mem ∧ exec (.rdword b a) s = .next (s.ok word))

/-- Rule R134: `UNPACK`, every check in its order and the element, which is what the function `unpack` of rule R130
gives. -/
def Obligations.UnpackReadsOneElement : Prop :=
  (∀ idx data, decodeCommand ⟨0x90, idx, data⟩ = .instr (.unpack .key idx) ∧
    decodeCommand ⟨0x91, idx, data⟩ = .instr (.unpack .val idx)) ∧
  (∀ (s : State) (b : Bank) (i : Nat), (s.bank b).isSealed = false →
    exec (.unpack b i) s = .next (s.failed 6)) ∧
  (∀ (s : State) (b : Bank) (i : Nat), (s.bank b).isSealed = true → (s.bank b).len ≤ i →
    exec (.unpack b i) s = .next (s.failed 2)) ∧
  (∀ (s : State) (b : Bank) (i w e : Nat), s.Inv → (s.bank b).isSealed = true → i < (s.bank b).len →
    w = (s.bank b).w → e = epw s.params.wordBits w →
    ∃ word, (i / e, word) ∈ (s.bank b).mem ∧
      exec (.unpack b i) s = .next (s.ok ((word >>> (i % e * w)) &&& (2 ^ w - 1))) ∧
      Sys2Proof.Machine.unpack s.params.wordBits w ((s.bank b).mem.map Prod.snd) i =
        some ((word >>> (i % e * w)) &&& (2 ^ w - 1)))

/-! ### Dictionary mapping (43_dictmap.md) -/

/-- Rule R151: `GET`, every check in its order and the value, two unpacks in series. -/
def Obligations.GetReadsThroughBothBanks : Prop :=
  (∀ idx data, decodeCommand ⟨0xA0, idx, data⟩ = .instr (.get idx)) ∧
  (∀ (s : State) (k : Nat), s.key.isSealed = false ∨ s.val.isSealed = false →
    exec (.get k) s = .next (s.failed 6)) ∧
  (∀ (s : State) (k : Nat), s.key.isSealed = true → s.val.isSealed = true → s.key.len ≤ k →
    exec (.get k) s = .next (s.failed 3)) ∧
  (∀ (s : State) (k wi ei wv ev : Nat), s.Inv → s.key.isSealed = true → s.val.isSealed = true → k < s.key.len →
    wi = s.key.w → ei = epw s.params.wordBits wi → wv = s.val.w → ev = epw s.params.wordBits wv →
    ∃ kw idx, (k / ei, kw) ∈ s.key.mem ∧ idx = (kw >>> (k % ei * wi)) &&& (2 ^ wi - 1) ∧
      (s.val.len ≤ idx → exec (.get k) s = .next (s.failed 2)) ∧
      (idx < s.val.len → ∃ vw, (idx / ev, vw) ∈ s.val.mem ∧
        exec (.get k) s = .next (s.ok ((vw >>> (idx % ev * wv)) &&& (2 ^ wv - 1)))))

/-- `GET` answers what the function `get(key)` of rule R150 gives on the mapping in the two banks. -/
def Obligations.GetIsTheMappingFunction : Prop :=
  ∀ (s : State) (k : Nat), s.Inv → s.key.isSealed = true → s.val.isSealed = true →
    (∃ v, getOfMapping s.params.wordBits s.mapping k = some (.ok v) ∧ exec (.get k) s = .next (s.ok v)) ∨
    (getOfMapping s.params.wordBits s.mapping k = some (.error .keyOutOfRange) ∧
      exec (.get k) s = .next (s.failed 3)) ∨
    (getOfMapping s.params.wordBits s.mapping k = some (.error .indexOutOfRange) ∧
      exec (.get k) s = .next (s.failed 2))

/-! ### Frames -/

/-- `NOP`, `CSRR`, `RDWORD`, `UNPACK`, `GET` change nothing but the responses and, on an error, `ERR`
(20_memory.md rules R75, R81). -/
def Obligations.FrameOfReadingCommands : Prop :=
  ∀ (i : Instr) (s t : State), readsOnly i = true → exec i s = .next t →
    t = { s with err := t.err, responses := t.responses } ∧
    (∀ b a, t.word? b a = s.word? b a) ∧
    (∀ r, t.responses = r :: s.responses → r.status = 0#8 → t.err = s.err)

/-- `PKBEGIN b`, `PKPUSH`, `PKEND`: what they leave unchanged. A word is stored at word `NW` of the bank being filled and
nowhere else, `PKPUSH` only where it completes a word and `PKEND` only where the staging word holds elements; words are
discarded only in the bank opened or aborted (41_packer.md rules R111 to R113, 20_memory.md rules R75, R77). -/
def Obligations.FrameOfPackerCommands : Prop :=
  (∀ (b : Bank) (s t : State), exec (.pkbegin b) s = .next t →
    t.params = s.params ∧ t.port = s.port ∧
    (∀ c, c ≠ b → t.bank c = s.bank c ∧ ∀ a, t.word? c a = s.word? c a) ∧
    (t.bank b).w = (s.bank b).w ∧ (t.bank b).len = (s.bank b).len ∧ (t.bank b).isSealed = (s.bank b).isSealed ∧
    (∀ r, t.responses = r :: s.responses → r.status = 0#8 → t.err = s.err ∧ ∀ a, t.word? b a = none) ∧
    (∀ r, t.responses = r :: s.responses → r.status ≠ 0#8 →
      t = { s with err := t.err, responses := t.responses })) ∧
  (∀ (v : Nat) (s t : State), exec (.pkpush v) s = .next t →
    t.params = s.params ∧ t.port = s.port ∧
    (∀ c, c ≠ s.pkBank → t.bank c = s.bank c) ∧
    (∀ c, (t.bank c).w = (s.bank c).w ∧ (t.bank c).len = (s.bank c).len ∧
      (t.bank c).isSealed = (s.bank c).isSealed) ∧
    (s.pkActive = false → t = { s with err := t.err, responses := t.responses }) ∧
    (∀ r, t.responses = r :: s.responses → r.status = 0#8 → t.err = s.err ∧ t.pkActive = true ∧
      t.pkBank = s.pkBank) ∧
    (t.pkActive = s.pkActive → ∀ c a, ¬ (c = s.pkBank ∧ a = (s.bank s.pkBank).nw) → t.word? c a = s.word? c a) ∧
    (t.pkActive = s.pkActive → s.cnt + 1 ≠ epw s.params.wordBits (s.bank s.pkBank).w →
      ∀ c a, t.word? c a = s.word? c a) ∧
    (t.pkActive ≠ s.pkActive → (∀ a, t.word? s.pkBank a = none) ∧
      ∀ c a, c ≠ s.pkBank → t.word? c a = s.word? c a)) ∧
  (∀ s t : State, exec .pkend s = .next t →
    t.params = s.params ∧ t.port = s.port ∧
    (∀ c, c ≠ s.pkBank → t.bank c = s.bank c) ∧
    (t.bank s.pkBank).w = (s.bank s.pkBank).w ∧
    (s.pkActive = false → t = { s with err := t.err, responses := t.responses }) ∧
    (s.pkActive = true → t.err = s.err) ∧
    (∀ c a, ¬ (c = s.pkBank ∧ a = (s.bank s.pkBank).nw) → t.word? c a = s.word? c a) ∧
    (s.pkActive = false ∨ s.cnt = 0 → ∀ c a, t.word? c a = s.word? c a))

/-- `LDWORD b`, `SEAL b`, `CSRW`, `RST`: what they leave unchanged (42_unpacker.md rules R131, R132; 44_system.md rules
R167, R168). -/
def Obligations.FrameOfLoadSealAndSystemWrites : Prop :=
  (∀ (b : Bank) (v : Nat) (s t : State), exec (.ldword b v) s = .next t →
    (∀ c, c ≠ b → t.bank c = s.bank c) ∧
    (t.bank b).w = (s.bank b).w ∧ (t.bank b).len = (s.bank b).len ∧ (t.bank b).isSealed = (s.bank b).isSealed ∧
    (∀ c a, ¬ (c = b ∧ a = (s.bank b).nw) → t.word? c a = s.word? c a) ∧
    t = { s with key := t.key, val := t.val, err := t.err, responses := t.responses }) ∧
  (∀ (b : Bank) (s t : State), exec (.sealBank b) s = .next t →
    (∀ c, c ≠ b → t.bank c = s.bank c) ∧
    t.bank b = { s.bank b with isSealed := (t.bank b).isSealed } ∧
    (∀ c a, t.word? c a = s.word? c a) ∧
    t = { s with key := t.key, val := t.val, err := t.err, responses := t.responses }) ∧
  (∀ (c : Fin 16) (v : Nat) (s t : State), exec (.csrw c v) s = .next t →
    (∀ b, t.bank b = { s.bank b with w := (t.bank b).w, len := (t.bank b).len }) ∧
    (c ≠ 4 → t.key.w = s.key.w) ∧ (c ≠ 5 → t.val.w = s.val.w) ∧
    (c ≠ 6 → t.key.len = s.key.len) ∧ (c ≠ 7 → t.val.len = s.val.len) ∧
    (∀ b a, t.word? b a = s.word? b a) ∧
    t = { s with key := t.key, val := t.val, err := t.err, responses := t.responses }) ∧
  (∀ s t : State, exec .rst s = .next t → t.params = s.params ∧ t.port = s.port)

/-! ### Errors (60_exceptions.md) -/

/-- Rule R190: an error response with code `n` sets bit `n` of `ERR`; a `PKPUSH` with code 1 or 9 also aborts the
construction, and no other error changes anything else. -/
def Obligations.ErrorEntryChangesOnlyErr : Prop :=
  (∀ (i : Instr) (s t : State) (r : Response), exec i s = .next t → t.responses = r :: s.responses → r.status ≠ 0#8 →
    r.data = 0 ∧
    ((∃ v, i = .pkpush v) ∧ (r.status = 1#8 ∨ r.status = 9#8) → t = s.aborted.failed r.status.toNat) ∧
    (¬ ((∃ v, i = .pkpush v) ∧ (r.status = 1#8 ∨ r.status = 9#8)) → t = s.failed r.status.toNat)) ∧
  (∀ (op : Nat) (s : State), rejectReserved op s = .next (s.failed 4))

/-- 10_state.md rule R26: a bit of `ERR` is set exactly by an error of its code (a reserved op byte's is code 4) and stays
set until reset or `RST`; a write to `ERR` raises `IllegalCommand`; bit 0 and bits 12 and above read as 0. -/
def Obligations.ErrIsAStickyMask : Prop :=
  (∀ (i : Instr) (s t : State), i ≠ .rst → exec i s = .next t →
    ∃ r, t.responses = r :: s.responses ∧
      ∀ n, n < 12 → t.err.getLsbD n = (s.err.getLsbD n || decide (n ≠ 0 ∧ r.status.toNat = n))) ∧
  (∀ (op : Nat) (s t : State), rejectReserved op s = .next t →
    ∀ n, n < 12 → t.err.getLsbD n = (s.err.getLsbD n || decide (n = 4))) ∧
  (∀ s t : State, exec .rst s = .next t → t.err = 0#12) ∧
  (∀ (s t : State) (lost : List Nat) (rest : List HostEvent), s.port = .reset lost :: rest → step s = .next t →
    t.err = 0#12) ∧
  (∀ s : State, s.csrValue .err = .ok s.err.toNat ∧ ∀ n, 12 ≤ n → s.err.toNat.testBit n = false) ∧
  (∀ (s : State) (v : Nat), exec (.csrw 2 v) s = .next (s.failed 4)) ∧
  (∀ s t : State, s.Inv → step s = .next t → t.err.getLsbD 0 = false)

/-- While a bank is sealed no command but `RST` changes its words, their number, its width or its length
(10_state.md rule R37). -/
def Obligations.SealedBankIsImmutable : Prop :=
  ∀ (i : Instr) (s t : State) (b : Bank), s.Inv → i ≠ .rst → exec i s = .next t → (s.bank b).isSealed = true →
    t.bank b = s.bank b

/-- The lifecycle of each bank follows the transition table of 10_state.md rule R40. -/
def Obligations.LifecycleFollowsTheTable : Prop :=
  ∀ (i : Instr) (s t : State) (r : Response) (b : Bank), s.Inv → exec i s = .next t → t.responses = r :: s.responses →
    lifecycle t b = lifecycleAfter b i (r.status == 0#8) (lifecycle s b)

/-- Two reading commands give the same responses and the same state in either order, unless one of them reads `ERR` and
the other sets a new bit of it (20_memory.md rule R81). That this one case is left out is the model's choice, log entry
7; `Obligations.CsrrErrSeesAFailedRead` shows it. -/
def Obligations.ReadingCommandsCommute : Prop :=
  ∀ (i j : Instr) (s s1 s2 : State), readsOnly i = true → readsOnly j = true →
    exec i s = .next s1 → exec j s1 = .next s2 → (i ≠ .csrr 2 ∧ j ≠ .csrr 2) ∨ s2.err = s.err →
    ∃ t1 t2 ri rj, exec j s = .next t1 ∧ exec i t1 = .next t2 ∧
      s2.responses = rj :: ri :: s.responses ∧ t2.responses = ri :: rj :: s.responses ∧
      t2 = { s2 with responses := t2.responses }

/-- A run of reading commands answers each command as the first state alone would, and any run of the same commands,
reordered or with some of them repeated, answers and leaves the same `ERR`, so no response changes (20_memory.md rule
R81). The case left out, that the run holds a `CSRR ERR` and sets a new bit of `ERR`, is the model's choice, log entry
7. -/
def Obligations.ReadingRunsMayBeReorderedAndReplicated : Prop :=
  ∀ (cmds : List Instr) (s t : State), (∀ i ∈ cmds, readsOnly i = true) → runAll cmds s = .next t →
    (∀ i ∈ cmds, i ≠ .csrr 2) ∨ t.err = s.err →
    t = { s with err := t.err, responses := t.responses } ∧
    (∃ rs, t.responses = rs.reverse ++ s.responses ∧
      List.Forall₂ (fun i r => ∃ u, exec i s = .next u ∧ u.responses = r :: s.responses) cmds rs) ∧
    ∀ other : List Instr, (∀ i, i ∈ other ↔ i ∈ cmds) → ∃ u, runAll other s = .next u ∧ u.err = t.err

/-- `CSRR ERR` and a reading command that fails do not commute: after reset, `CSRR ERR` answers `0x040` after a `GET` and
0 before it. The words of 20_memory.md rule R81 would have it otherwise; to follow 10_state.md rule R26, 44_system.md
rule R166 and 60_exceptions.md rule R190 over them, as program P1 of 95_test_vectors.md does, is the model's choice,
log entry 7. -/
def Obligations.CsrrErrSeesAFailedRead : Prop :=
  (∃ t, runAll [.get 0, .csrr 2] State.reset = .next t ∧ t.responses = [⟨0#8, 0x040⟩, ⟨6#8, 0⟩]) ∧
  (∃ t, runAll [.csrr 2, .get 0] State.reset = .next t ∧ t.responses = [⟨6#8, 0⟩, ⟨0#8, 0⟩])

/-- 60_exceptions.md rule R196: once both banks are sealed, whatever commands are presented, reserved op bytes and every
other erroneous command among them, but no `RST`, the block answers them all, both banks stay as they are and the
response to `GET` stays the same for every key. -/
def Obligations.SealedMappingSurvivesErrors : Prop :=
  ∀ (words : List Nat) (rest : List HostEvent) (s : State), s.Inv → s.key.isSealed = true → s.val.isSealed = true →
    s.port = words.map .command ++ rest → (∀ w ∈ words, decode s.params w ≠ .instr .rst) →
    ∃ t, runSteps words.length s = .next t ∧ t.port = rest ∧ t.key = s.key ∧ t.val = s.val ∧
      ∀ k, ∃ s' t' r, exec (.get k) s = .next s' ∧ exec (.get k) t = .next t' ∧
        s'.responses = r :: s.responses ∧ t'.responses = r :: t.responses

/-! ### Layout (20_memory.md) -/

/-- Rule R63: `G0(W)` is the smallest positive `G` with `G*W` a multiple of 8, with the values by the residue of `W`. -/
def Obligations.NaturalGroupIsTheLeast : Prop :=
  ∀ w : Nat, 1 ≤ w →
    naturalGroup w = 8 / Nat.gcd w 8 ∧ 1 ≤ naturalGroup w ∧ naturalGroup w * w % 8 = 0 ∧
    (∀ g, 1 ≤ g → g * w % 8 = 0 → naturalGroup w ≤ g) ∧
    (w % 8 = 0 → naturalGroup w = 1) ∧ (w % 8 = 4 → naturalGroup w = 2) ∧
    (w % 4 = 2 → naturalGroup w = 4) ∧ (w % 2 = 1 → naturalGroup w = 8)

/-- The bounds of rules R64 to R66 on groups and elements per word, and when the count is the raw one. -/
def Obligations.ElementsPerWordBounds : Prop :=
  ∀ b w : Nat, 8 ≤ b → b % 8 = 0 → 1 ≤ w → w ≤ b →
    1 ≤ groupSize b w ∧ groupSize b w * w ≤ b ∧ 1 ≤ groupsPerWord b w ∧
    groupsPerWord b w = eRaw b w / groupSize b w ∧
    1 ≤ epw b w ∧ epw b w ≤ eRaw b w ∧ groupSize b w ∣ epw b w ∧ epw b w * w ≤ b ∧
    (8 ∣ w ∨ w ∣ 8 ∨ b < naturalGroup w * w → epw b w = eRaw b w)

/-- Rows of the tables of 20_memory.md rule R66 (`B = 256`) and 95_test_vectors.md section 2.1, as
`(B, W, G0, G, LG, GPW, EPW, E_raw)`, and the 31 widths for which the two counts differ at `B = 256`. -/
def Obligations.LayoutTableOfTheSpec : Prop :=
  (∀ r ∈ [(256, 1, 8, 8, 1, 32, 256, 256), (256, 3, 8, 8, 3, 10, 80, 85), (256, 4, 2, 2, 1, 32, 64, 64),
      (256, 10, 4, 4, 5, 6, 24, 25), (256, 16, 1, 1, 2, 16, 16, 16), (256, 33, 8, 7, 29, 1, 7, 7),
      (256, 50, 4, 4, 25, 1, 4, 5), (256, 70, 4, 3, 27, 1, 3, 3), (256, 129, 8, 1, 17, 1, 1, 1),
      (256, 256, 1, 1, 32, 1, 1, 1), (8, 3, 8, 2, 1, 1, 2, 2), (16, 5, 8, 3, 2, 1, 3, 3),
      (32, 7, 8, 4, 4, 1, 4, 4), (64, 10, 4, 4, 5, 1, 4, 6)],
    naturalGroup r.2.1 = r.2.2.1 ∧ groupSize r.1 r.2.1 = r.2.2.2.1 ∧ groupBytes r.1 r.2.1 = r.2.2.2.2.1 ∧
    groupsPerWord r.1 r.2.1 = r.2.2.2.2.2.1 ∧ epw r.1 r.2.1 = r.2.2.2.2.2.2.1 ∧
    eRaw r.1 r.2.1 = r.2.2.2.2.2.2.2) ∧
  ((List.range 257).filter fun w => decide (1 ≤ w ∧ epw 256 w < eRaw 256 w)) =
    [3, 5, 6, 7, 9, 10, 11, 12, 13, 14, 15, 17, 18, 19, 21, 22, 23, 25, 26, 27, 28, 34, 36, 38, 42, 44, 46, 50, 68,
      76, 84]

/-- Rule R70: the byte procedure of rule R68 and the closed form give the same word; element `j` is at word bits
`j*W .. j*W+W-1` and every bit above the last lane is 0. -/
def Obligations.ByteProcedureIsTheClosedForm : Prop :=
  ∀ (b w : Nat) (e : Nat → Nat), 8 ≤ b → b % 8 = 0 → 1 ≤ w → w ≤ b → (∀ j, j < epw b w → e j < 2 ^ w) →
    packWordByBytes b w e = packWord b w e ∧
    (∀ j n, j < epw b w → n < w → (packWord b w e).testBit (j * w + n) = (e j).testBit n) ∧
    (∀ n, epw b w * w ≤ n → (packWord b w e).testBit n = false)

/-- 42_unpacker.md rule R130: the byte procedure of `unpack` is the closed form, and the result is below `2^W`. -/
def Obligations.UnpackByBytesIsTheClosedForm : Prop :=
  ∀ (b w : Nat) (words : List Nat) (i : Nat), 8 ≤ b → b % 8 = 0 → 1 ≤ w → w ≤ b → (∀ x ∈ words, x < 2 ^ b) →
    unpackByBytes b w words i = Sys2Proof.Machine.unpack b w words i ∧
    (∀ v, Sys2Proof.Machine.unpack b w words i = some v → v < 2 ^ w) ∧
    (i / epw b w < words.length → ∃ v, Sys2Proof.Machine.unpack b w words i = some v)

/-- `unpack(pack(v)) = v`, the length of the packed array, and when `pack` fails (41_packer.md rules R110, R115,
20_memory.md rule R73). -/
def Obligations.UnpackOfPackIsTheElement : Prop :=
  ∀ (b w : Nat) (values : List Nat), 8 ≤ b → b % 8 = 0 → 1 ≤ w → w ≤ b →
    (∀ ws, pack b w values = .ok ws →
      ws.length = ceilDiv values.length (epw b w) ∧ (∀ x ∈ ws, x < 2 ^ b) ∧
      ∀ i v, values[i]? = some v → Sys2Proof.Machine.unpack b w ws i = some v) ∧
    ((∀ v ∈ values, v < 2 ^ w) → ∃ ws, pack b w values = .ok ws) ∧
    ((∃ v ∈ values, 2 ^ w ≤ v) → pack b w values = .error .valueOutOfRange)

/-- Rule R71: in a packed word every bit that is not part of an element of the array is 0. -/
def Obligations.PaddingIsZero : Prop :=
  ∀ (b w : Nat) (values ws : List Nat) (q word n : Nat), 8 ≤ b → b % 8 = 0 → 1 ≤ w → w ≤ b →
    pack b w values = .ok ws → ws[q]? = some word → word.testBit n = true →
    ∃ j, j < epw b w ∧ q * epw b w + j < values.length ∧ j * w ≤ n ∧ n < (j + 1) * w

/-! ### Whole constructions -/

/-- 41_packer.md rule R114, first case: `PKBEGIN`, the pushes and `PKEND` all succeed and leave in the bank the words
that `pack` gives; the other bank is untouched. -/
def Obligations.StreamEqualsPack : Prop :=
  ∀ (s : State) (b : Bank) (w : Nat) (values : List Nat), s.ReadyFor b → w = (s.bank b).w → 1 ≤ w →
    (∀ v ∈ values, v < 2 ^ w) → ceilDiv values.length (epw s.params.wordBits w) ≤ s.cap b →
    ∃ t ws, runAll (construction b values) s = .next t ∧ pack s.params.wordBits w values = .ok ws ∧
      t.AllOkSince s (values.length + 2) ∧ (t.bank b).isSealed = true ∧ (t.bank b).len = values.length ∧
      (t.bank b).nw = ws.length ∧ (∀ q, q < ws.length → t.word? b q = ws[q]?) ∧
      (∀ c, c ≠ b → t.bank c = s.bank c) ∧ t.pkActive = false

/-- 41_packer.md rule R114, second case: where `pack` fails, the push of the first value that does not fit ends in
`ValueOutOfRange`, the bank is empty and open, and the rest ends in `PackerState`. -/
def Obligations.StreamFailsWherePackFails : Prop :=
  ∀ (s : State) (b : Bank) (w v : Nat) (before after : List Nat), s.ReadyFor b → w = (s.bank b).w → 1 ≤ w →
    (∀ x ∈ before, x < 2 ^ w) → 2 ^ w ≤ v →
    ceilDiv (before ++ v :: after).length (epw s.params.wordBits w) ≤ s.cap b →
    pack s.params.wordBits w (before ++ v :: after) = .error .valueOutOfRange ∧
    ∃ t, runAll (construction b (before ++ v :: after)) s = .next t ∧
      t.responses = List.replicate (after.length + 1) ⟨7#8, 0⟩ ++
        ⟨1#8, 0⟩ :: (List.replicate (before.length + 1) ⟨0#8, 0⟩ ++ s.responses) ∧
      (t.bank b).nw = 0 ∧ lifecycle t b = .opened

/-- 41_packer.md rule R114, third case: where the array needs more words than the bank has, the push of element number
`CAP * EPW` ends in `CapacityExceeded` and the construction is aborted. -/
def Obligations.StreamBeyondCapacityAborts : Prop :=
  ∀ (s : State) (b : Bank) (w n : Nat) (values : List Nat), s.ReadyFor b → w = (s.bank b).w → 1 ≤ w →
    (∀ v ∈ values, v < 2 ^ w) → s.cap b < ceilDiv values.length (epw s.params.wordBits w) →
    n = s.cap b * epw s.params.wordBits w →
    n < values.length ∧
    ∃ t, runAll (.pkbegin b :: (values.take (n + 1)).map .pkpush) s = .next t ∧
      t.responses = ⟨9#8, 0⟩ :: (List.replicate (n + 1) ⟨0#8, 0⟩ ++ s.responses) ∧
      (t.bank b).nw = 0 ∧ lifecycle t b = .opened

/-- 41_packer.md rule R115, round trip: after a construction that succeeded `UNPACK b, i` answers the `i`-th value
pushed, and `IndexOutOfRange` from the length on. -/
def Obligations.PackedBankRoundTrip : Prop :=
  ∀ (s t : State) (b : Bank) (values : List Nat), s.ReadyFor b →
    runAll (construction b values) s = .next t → t.AllOkSince s (values.length + 2) →
    (∀ i v, values[i]? = some v → exec (.unpack b i) t = .next (t.ok v)) ∧
    (∀ i, values.length ≤ i → exec (.unpack b i) t = .next (t.failed 2))

/-- 43_dictmap.md rule R157: after a `BUILD` that succeeded with every key index below the number of values, `GET` answers
what the naive oracle of rule R156 gives, and `KeyOutOfRange` for every other key. -/
def Obligations.GetAgreesWithTheOracle : Prop :=
  ∀ (s t : State) (wi wv : Nat) (keyIndices values : List Nat), s.ReadyFor .key → s.ReadyFor .val →
    runAll (buildCommands wi wv keyIndices values) s = .next t →
    t.AllOkSince s (keyIndices.length + values.length + 6) → (∀ k ∈ keyIndices, k < values.length) →
    (∀ key, key < keyIndices.length →
      ∃ v, naiveGet keyIndices values key = some v ∧ exec (.get key) t = .next (t.ok v)) ∧
    (∀ key, keyIndices.length ≤ key → exec (.get key) t = .next (t.failed 3))

/-- 42_unpacker.md rule R136 (c), (d): after a `LOAD` into an empty bank that succeeded, `UNPACK` answers what `unpack`
gives on the loaded words, and so the element packed where the words are a packed array. -/
def Obligations.LoadedBankUnpacks : Prop :=
  ∀ (s t : State) (b : Bank) (w n : Nat) (words : List Nat), s.ReadyFor b → (s.bank b).nw = 0 →
    (∀ x ∈ words, x < 2 ^ s.params.wordBits) → runAll (loadCommands b w n words) s = .next t →
    t.AllOkSince s (words.length + 3) →
    (∀ i, i < n → ∃ v, Sys2Proof.Machine.unpack s.params.wordBits w words i = some v ∧
      exec (.unpack b i) t = .next (t.ok v)) ∧
    (∀ values, values.length = n → pack s.params.wordBits w values = .ok words →
      ∀ i v, values[i]? = some v → exec (.unpack b i) t = .next (t.ok v))
end

