-- ==== Sys2Proof/Laws/Check.lean ====
section
/-! SUPPORT. The invariant of 10_state.md rule R41 as a computation, so that a test can show it of a concrete state. -/

namespace Sys2Proof.Machine

/-- `BankState.Inv` as a Bool. -/
def BankState.checkInv (p : Params) (cap : Nat) (x : BankState) : Bool :=
  decide (x.w ≤ p.wordBits) && decide (x.len < 2 ^ p.idxBits) && decide (x.nw ≤ cap) &&
    decide (x.mem.map Prod.fst = List.range x.nw) && x.mem.all (fun c => decide (c.2 < 2 ^ p.wordBits)) &&
    (!x.isSealed || decide (1 ≤ x.w ∧ x.nw = ceilDiv x.len (epw p.wordBits x.w)))

theorem BankState.inv_of_check {p : Params} {cap : Nat} {x : BankState} (h : x.checkInv p cap = true) :
    x.Inv p cap := by
  simp only [BankState.checkInv, Bool.and_eq_true, decide_eq_true_eq, List.all_eq_true, Bool.or_eq_true,
    Bool.not_eq_true'] at h
  obtain ⟨⟨⟨⟨⟨h1, h2⟩, h3⟩, h4⟩, h5⟩, h6⟩ := h
  exact ⟨h1, h2, h3, h4, h5, fun hs => h6.resolve_left (by simp [hs])⟩

/-- `State.PackerFilling` as a Bool. -/
def State.checkFilling (s : State) : Bool :=
  !(s.bank s.pkBank).isSealed && decide (1 ≤ (s.bank s.pkBank).w) &&
    decide ((s.bank s.pkBank).w ≤ s.params.wordBits) &&
    decide (s.cnt < epw s.params.wordBits (s.bank s.pkBank).w) &&
    decide (s.acc < 2 ^ (s.cnt * (s.bank s.pkBank).w)) &&
    decide (s.pkCount = (s.bank s.pkBank).nw * epw s.params.wordBits (s.bank s.pkBank).w + s.cnt) &&
    decide (0 < s.cnt → (s.bank s.pkBank).nw < s.cap s.pkBank)

/-- `State.Inv` as a Bool. -/
def State.checkInv (s : State) : Bool :=
  decide s.params.Legal && s.key.checkInv s.params s.params.keyWords && s.val.checkInv s.params s.params.valWords &&
    (if s.pkActive then s.checkFilling
      else decide (s.pkBank = .key ∧ s.acc = 0 ∧ s.cnt = 0 ∧ s.pkCount = 0)) &&
    !s.err.getLsbD 0

/-- A state that passes the computation meets the invariant. -/
theorem State.inv_of_check {s : State} (h : s.checkInv = true) : s.Inv := by
  simp only [State.checkInv, Bool.and_eq_true, decide_eq_true_eq, Bool.not_eq_true'] at h
  obtain ⟨⟨⟨⟨h1, h2⟩, h3⟩, h4⟩, h5⟩ := h
  refine ⟨h1, BankState.inv_of_check h2, BankState.inv_of_check h3, fun ha => ?_, fun ha => ?_, h5⟩
  · simp only [ha, Bool.false_eq_true, if_false, decide_eq_true_eq] at h4
    exact ⟨h4.1, h4.2.1, h4.2.2.1, h4.2.2.2⟩
  · simp only [ha, if_true, State.checkFilling, Bool.and_eq_true, decide_eq_true_eq, Bool.not_eq_true'] at h4
    obtain ⟨⟨⟨⟨⟨⟨g1, g2⟩, g3⟩, g4⟩, g5⟩, g6⟩, g7⟩ := h4
    exact ⟨g1, g2, g3, g4, g5, g6, g7⟩

end Sys2Proof.Machine
end

