-- ==== Sys2Proof/Laws/State.lean ====
section
/-! SUPPORT. One lemma per field of State per named update, so that no proof unfolds a record update. -/

namespace Sys2Proof.Machine

/-! ### `deliver`, `ok`, `recordError`, `failed` -/
@[simp] theorem State.params_deliver (s : State) (r : Response) : (s.deliver r).params = s.params := rfl
@[simp] theorem State.key_deliver (s : State) (r : Response) : (s.deliver r).key = s.key := rfl
@[simp] theorem State.val_deliver (s : State) (r : Response) : (s.deliver r).val = s.val := rfl
@[simp] theorem State.pkCount_deliver (s : State) (r : Response) : (s.deliver r).pkCount = s.pkCount := rfl
@[simp] theorem State.err_deliver (s : State) (r : Response) : (s.deliver r).err = s.err := rfl
@[simp] theorem State.pkActive_deliver (s : State) (r : Response) : (s.deliver r).pkActive = s.pkActive := rfl
@[simp] theorem State.pkBank_deliver (s : State) (r : Response) : (s.deliver r).pkBank = s.pkBank := rfl
@[simp] theorem State.acc_deliver (s : State) (r : Response) : (s.deliver r).acc = s.acc := rfl
@[simp] theorem State.cnt_deliver (s : State) (r : Response) : (s.deliver r).cnt = s.cnt := rfl
@[simp] theorem State.port_deliver (s : State) (r : Response) : (s.deliver r).port = s.port := rfl
@[simp] theorem State.responses_deliver (s : State) (r : Response) : (s.deliver r).responses = r :: s.responses := rfl
@[simp] theorem State.params_ok (s : State) (v : Nat) : (s.ok v).params = s.params := rfl
@[simp] theorem State.key_ok (s : State) (v : Nat) : (s.ok v).key = s.key := rfl
@[simp] theorem State.val_ok (s : State) (v : Nat) : (s.ok v).val = s.val := rfl
@[simp] theorem State.pkCount_ok (s : State) (v : Nat) : (s.ok v).pkCount = s.pkCount := rfl
@[simp] theorem State.err_ok (s : State) (v : Nat) : (s.ok v).err = s.err := rfl
@[simp] theorem State.pkActive_ok (s : State) (v : Nat) : (s.ok v).pkActive = s.pkActive := rfl
@[simp] theorem State.pkBank_ok (s : State) (v : Nat) : (s.ok v).pkBank = s.pkBank := rfl
@[simp] theorem State.acc_ok (s : State) (v : Nat) : (s.ok v).acc = s.acc := rfl
@[simp] theorem State.cnt_ok (s : State) (v : Nat) : (s.ok v).cnt = s.cnt := rfl
@[simp] theorem State.port_ok (s : State) (v : Nat) : (s.ok v).port = s.port := rfl
@[simp] theorem State.responses_ok (s : State) (v : Nat) : (s.ok v).responses = ⟨0#8, v⟩ :: s.responses := rfl
@[simp] theorem State.params_recordError (s : State) (e : ErrorKind) : (s.recordError e).params = s.params := rfl
@[simp] theorem State.key_recordError (s : State) (e : ErrorKind) : (s.recordError e).key = s.key := rfl
@[simp] theorem State.val_recordError (s : State) (e : ErrorKind) : (s.recordError e).val = s.val := rfl
@[simp] theorem State.pkCount_recordError (s : State) (e : ErrorKind) : (s.recordError e).pkCount = s.pkCount := rfl
@[simp] theorem State.err_recordError (s : State) (e : ErrorKind) : (s.recordError e).err = s.err ||| errorBit e := rfl
@[simp] theorem State.pkActive_recordError (s : State) (e : ErrorKind) : (s.recordError e).pkActive = s.pkActive := rfl
@[simp] theorem State.pkBank_recordError (s : State) (e : ErrorKind) : (s.recordError e).pkBank = s.pkBank := rfl
@[simp] theorem State.acc_recordError (s : State) (e : ErrorKind) : (s.recordError e).acc = s.acc := rfl
@[simp] theorem State.cnt_recordError (s : State) (e : ErrorKind) : (s.recordError e).cnt = s.cnt := rfl
@[simp] theorem State.port_recordError (s : State) (e : ErrorKind) : (s.recordError e).port = s.port := rfl
@[simp] theorem State.responses_recordError (s : State) (e : ErrorKind) : (s.recordError e).responses = s.responses := rfl
@[simp] theorem State.params_failed (s : State) (n : Nat) : (s.failed n).params = s.params := rfl
@[simp] theorem State.key_failed (s : State) (n : Nat) : (s.failed n).key = s.key := rfl
@[simp] theorem State.val_failed (s : State) (n : Nat) : (s.failed n).val = s.val := rfl
@[simp] theorem State.pkCount_failed (s : State) (n : Nat) : (s.failed n).pkCount = s.pkCount := rfl
@[simp] theorem State.err_failed (s : State) (n : Nat) : (s.failed n).err = s.err ||| (1#12 <<< n) := rfl
@[simp] theorem State.pkActive_failed (s : State) (n : Nat) : (s.failed n).pkActive = s.pkActive := rfl
@[simp] theorem State.pkBank_failed (s : State) (n : Nat) : (s.failed n).pkBank = s.pkBank := rfl
@[simp] theorem State.acc_failed (s : State) (n : Nat) : (s.failed n).acc = s.acc := rfl
@[simp] theorem State.cnt_failed (s : State) (n : Nat) : (s.failed n).cnt = s.cnt := rfl
@[simp] theorem State.port_failed (s : State) (n : Nat) : (s.failed n).port = s.port := rfl
@[simp] theorem State.responses_failed (s : State) (n : Nat) : (s.failed n).responses = ⟨BitVec.ofNat 8 n, 0⟩ :: s.responses := rfl

/-! ### `setBank` -/
@[simp] theorem State.params_setBank (s : State) (b : Bank) (x : BankState) : (s.setBank b x).params = s.params := by cases b <;> rfl
@[simp] theorem State.pkCount_setBank (s : State) (b : Bank) (x : BankState) : (s.setBank b x).pkCount = s.pkCount := by cases b <;> rfl
@[simp] theorem State.err_setBank (s : State) (b : Bank) (x : BankState) : (s.setBank b x).err = s.err := by cases b <;> rfl
@[simp] theorem State.pkActive_setBank (s : State) (b : Bank) (x : BankState) : (s.setBank b x).pkActive = s.pkActive := by cases b <;> rfl
@[simp] theorem State.pkBank_setBank (s : State) (b : Bank) (x : BankState) : (s.setBank b x).pkBank = s.pkBank := by cases b <;> rfl
@[simp] theorem State.acc_setBank (s : State) (b : Bank) (x : BankState) : (s.setBank b x).acc = s.acc := by cases b <;> rfl
@[simp] theorem State.cnt_setBank (s : State) (b : Bank) (x : BankState) : (s.setBank b x).cnt = s.cnt := by cases b <;> rfl
@[simp] theorem State.port_setBank (s : State) (b : Bank) (x : BankState) : (s.setBank b x).port = s.port := by cases b <;> rfl
@[simp] theorem State.responses_setBank (s : State) (b : Bank) (x : BankState) : (s.setBank b x).responses = s.responses := by cases b <;> rfl
@[simp] theorem State.key_setBank_key (s : State) (x : BankState) : (s.setBank .key x).key = x := rfl
@[simp] theorem State.val_setBank_key (s : State) (x : BankState) : (s.setBank .key x).val = s.val := rfl
@[simp] theorem State.key_setBank_val (s : State) (x : BankState) : (s.setBank .val x).key = s.key := rfl
@[simp] theorem State.val_setBank_val (s : State) (x : BankState) : (s.setBank .val x).val = x := rfl

/-! ### `discardWords` -/
@[simp] theorem State.params_discardWords (s : State) (b : Bank) : (s.discardWords b).params = s.params := by cases b <;> rfl
@[simp] theorem State.pkCount_discardWords (s : State) (b : Bank) : (s.discardWords b).pkCount = s.pkCount := by cases b <;> rfl
@[simp] theorem State.err_discardWords (s : State) (b : Bank) : (s.discardWords b).err = s.err := by cases b <;> rfl
@[simp] theorem State.pkActive_discardWords (s : State) (b : Bank) : (s.discardWords b).pkActive = s.pkActive := by cases b <;> rfl
@[simp] theorem State.pkBank_discardWords (s : State) (b : Bank) : (s.discardWords b).pkBank = s.pkBank := by cases b <;> rfl
@[simp] theorem State.acc_discardWords (s : State) (b : Bank) : (s.discardWords b).acc = s.acc := by cases b <;> rfl
@[simp] theorem State.cnt_discardWords (s : State) (b : Bank) : (s.discardWords b).cnt = s.cnt := by cases b <;> rfl
@[simp] theorem State.port_discardWords (s : State) (b : Bank) : (s.discardWords b).port = s.port := by cases b <;> rfl
@[simp] theorem State.responses_discardWords (s : State) (b : Bank) : (s.discardWords b).responses = s.responses := by cases b <;> rfl

/-! ### `openPacker`, `clearPacker`, `abortConstruction`, `placeElement`, `sealConstruction`, `clearAll` -/
@[simp] theorem State.params_openPacker (s : State) (b : Bank) : (s.openPacker b).params = s.params := by cases b <;> rfl
@[simp] theorem State.pkCount_openPacker (s : State) (b : Bank) : (s.openPacker b).pkCount = 0 := by cases b <;> rfl
@[simp] theorem State.err_openPacker (s : State) (b : Bank) : (s.openPacker b).err = s.err := by cases b <;> rfl
@[simp] theorem State.pkActive_openPacker (s : State) (b : Bank) : (s.openPacker b).pkActive = true := by cases b <;> rfl
@[simp] theorem State.pkBank_openPacker (s : State) (b : Bank) : (s.openPacker b).pkBank = b := by cases b <;> rfl
@[simp] theorem State.acc_openPacker (s : State) (b : Bank) : (s.openPacker b).acc = 0 := by cases b <;> rfl
@[simp] theorem State.cnt_openPacker (s : State) (b : Bank) : (s.openPacker b).cnt = 0 := by cases b <;> rfl
@[simp] theorem State.port_openPacker (s : State) (b : Bank) : (s.openPacker b).port = s.port := by cases b <;> rfl
@[simp] theorem State.responses_openPacker (s : State) (b : Bank) : (s.openPacker b).responses = s.responses := by cases b <;> rfl
@[simp] theorem State.params_clearPacker (s : State) : (s.clearPacker).params = s.params := rfl
@[simp] theorem State.key_clearPacker (s : State) : (s.clearPacker).key = s.key := rfl
@[simp] theorem State.val_clearPacker (s : State) : (s.clearPacker).val = s.val := rfl
@[simp] theorem State.pkCount_clearPacker (s : State) : (s.clearPacker).pkCount = 0 := rfl
@[simp] theorem State.err_clearPacker (s : State) : (s.clearPacker).err = s.err := rfl
@[simp] theorem State.pkActive_clearPacker (s : State) : (s.clearPacker).pkActive = false := rfl
@[simp] theorem State.pkBank_clearPacker (s : State) : (s.clearPacker).pkBank = .key := rfl
@[simp] theorem State.acc_clearPacker (s : State) : (s.clearPacker).acc = 0 := rfl
@[simp] theorem State.cnt_clearPacker (s : State) : (s.clearPacker).cnt = 0 := rfl
@[simp] theorem State.port_clearPacker (s : State) : (s.clearPacker).port = s.port := rfl
@[simp] theorem State.responses_clearPacker (s : State) : (s.clearPacker).responses = s.responses := rfl
@[simp] theorem State.params_abortConstruction (s : State) : s.abortConstruction.params = s.params := by simp [State.abortConstruction]
@[simp] theorem State.pkCount_abortConstruction (s : State) : s.abortConstruction.pkCount = 0 := by simp [State.abortConstruction]
@[simp] theorem State.err_abortConstruction (s : State) : s.abortConstruction.err = s.err := by simp [State.abortConstruction]
@[simp] theorem State.pkActive_abortConstruction (s : State) : s.abortConstruction.pkActive = false := by simp [State.abortConstruction]
@[simp] theorem State.pkBank_abortConstruction (s : State) : s.abortConstruction.pkBank = .key := by simp [State.abortConstruction]
@[simp] theorem State.acc_abortConstruction (s : State) : s.abortConstruction.acc = 0 := by simp [State.abortConstruction]
@[simp] theorem State.cnt_abortConstruction (s : State) : s.abortConstruction.cnt = 0 := by simp [State.abortConstruction]
@[simp] theorem State.port_abortConstruction (s : State) : s.abortConstruction.port = s.port := by simp [State.abortConstruction]
@[simp] theorem State.responses_abortConstruction (s : State) : s.abortConstruction.responses = s.responses := by simp [State.abortConstruction]
@[simp] theorem State.params_placeElement (s : State) (w v : Nat) : (s.placeElement w v).params = s.params := rfl
@[simp] theorem State.key_placeElement (s : State) (w v : Nat) : (s.placeElement w v).key = s.key := rfl
@[simp] theorem State.val_placeElement (s : State) (w v : Nat) : (s.placeElement w v).val = s.val := rfl
@[simp] theorem State.pkCount_placeElement (s : State) (w v : Nat) : (s.placeElement w v).pkCount = s.pkCount + 1 := rfl
@[simp] theorem State.err_placeElement (s : State) (w v : Nat) : (s.placeElement w v).err = s.err := rfl
@[simp] theorem State.pkActive_placeElement (s : State) (w v : Nat) : (s.placeElement w v).pkActive = s.pkActive := rfl
@[simp] theorem State.pkBank_placeElement (s : State) (w v : Nat) : (s.placeElement w v).pkBank = s.pkBank := rfl
@[simp] theorem State.acc_placeElement (s : State) (w v : Nat) : (s.placeElement w v).acc = s.acc ||| (v <<< (s.cnt * w)) := rfl
@[simp] theorem State.cnt_placeElement (s : State) (w v : Nat) : (s.placeElement w v).cnt = s.cnt + 1 := rfl
@[simp] theorem State.port_placeElement (s : State) (w v : Nat) : (s.placeElement w v).port = s.port := rfl
@[simp] theorem State.responses_placeElement (s : State) (w v : Nat) : (s.placeElement w v).responses = s.responses := rfl
@[simp] theorem State.params_sealConstruction (s : State) : s.sealConstruction.params = s.params := by simp [State.sealConstruction]
@[simp] theorem State.pkCount_sealConstruction (s : State) : s.sealConstruction.pkCount = 0 := by simp [State.sealConstruction]
@[simp] theorem State.err_sealConstruction (s : State) : s.sealConstruction.err = s.err := by simp [State.sealConstruction]
@[simp] theorem State.pkActive_sealConstruction (s : State) : s.sealConstruction.pkActive = false := by simp [State.sealConstruction]
@[simp] theorem State.pkBank_sealConstruction (s : State) : s.sealConstruction.pkBank = .key := by simp [State.sealConstruction]
@[simp] theorem State.acc_sealConstruction (s : State) : s.sealConstruction.acc = 0 := by simp [State.sealConstruction]
@[simp] theorem State.cnt_sealConstruction (s : State) : s.sealConstruction.cnt = 0 := by simp [State.sealConstruction]
@[simp] theorem State.port_sealConstruction (s : State) : s.sealConstruction.port = s.port := by simp [State.sealConstruction]
@[simp] theorem State.responses_sealConstruction (s : State) : s.sealConstruction.responses = s.responses := by simp [State.sealConstruction]
@[simp] theorem State.params_clearAll (s : State) : (s.clearAll).params = s.params := rfl
@[simp] theorem State.key_clearAll (s : State) : (s.clearAll).key = BankState.reset := rfl
@[simp] theorem State.val_clearAll (s : State) : (s.clearAll).val = BankState.reset := rfl
@[simp] theorem State.pkCount_clearAll (s : State) : (s.clearAll).pkCount = 0 := rfl
@[simp] theorem State.err_clearAll (s : State) : (s.clearAll).err = 0#12 := rfl
@[simp] theorem State.pkActive_clearAll (s : State) : (s.clearAll).pkActive = false := rfl
@[simp] theorem State.pkBank_clearAll (s : State) : (s.clearAll).pkBank = .key := rfl
@[simp] theorem State.acc_clearAll (s : State) : (s.clearAll).acc = 0 := rfl
@[simp] theorem State.cnt_clearAll (s : State) : (s.clearAll).cnt = 0 := rfl
@[simp] theorem State.port_clearAll (s : State) : (s.clearAll).port = s.port := rfl
@[simp] theorem State.responses_clearAll (s : State) : (s.clearAll).responses = s.responses := rfl

/-! ### `writeTarget` -/
@[simp] theorem State.params_writeTarget (s : State) (t : CsrTarget) (v : Nat) : (s.writeTarget t v).params = s.params := by rcases t with b | b <;> cases b <;> rfl
@[simp] theorem State.pkCount_writeTarget (s : State) (t : CsrTarget) (v : Nat) : (s.writeTarget t v).pkCount = s.pkCount := by rcases t with b | b <;> cases b <;> rfl
@[simp] theorem State.err_writeTarget (s : State) (t : CsrTarget) (v : Nat) : (s.writeTarget t v).err = s.err := by rcases t with b | b <;> cases b <;> rfl
@[simp] theorem State.pkActive_writeTarget (s : State) (t : CsrTarget) (v : Nat) : (s.writeTarget t v).pkActive = s.pkActive := by rcases t with b | b <;> cases b <;> rfl
@[simp] theorem State.pkBank_writeTarget (s : State) (t : CsrTarget) (v : Nat) : (s.writeTarget t v).pkBank = s.pkBank := by rcases t with b | b <;> cases b <;> rfl
@[simp] theorem State.acc_writeTarget (s : State) (t : CsrTarget) (v : Nat) : (s.writeTarget t v).acc = s.acc := by rcases t with b | b <;> cases b <;> rfl
@[simp] theorem State.cnt_writeTarget (s : State) (t : CsrTarget) (v : Nat) : (s.writeTarget t v).cnt = s.cnt := by rcases t with b | b <;> cases b <;> rfl
@[simp] theorem State.port_writeTarget (s : State) (t : CsrTarget) (v : Nat) : (s.writeTarget t v).port = s.port := by rcases t with b | b <;> cases b <;> rfl
@[simp] theorem State.responses_writeTarget (s : State) (t : CsrTarget) (v : Nat) : (s.writeTarget t v).responses = s.responses := by rcases t with b | b <;> cases b <;> rfl

/-! ### Bank `b` after each update -/
@[simp] theorem State.bank_key (s : State) : s.bank .key = s.key := rfl
@[simp] theorem State.bank_val (s : State) : s.bank .val = s.val := rfl
@[simp] theorem State.bank_setBank_same (s : State) (b : Bank) (x : BankState) : (s.setBank b x).bank b = x := by
  cases b <;> rfl
theorem State.bank_setBank_other (s : State) {b c : Bank} (x : BankState) (h : c ≠ b) :
    (s.setBank b x).bank c = s.bank c := by
  cases b <;> cases c <;> first | rfl | exact absurd rfl h
@[simp] theorem State.setBank_bank (s : State) (b : Bank) : s.setBank b (s.bank b) = s := by cases b <;> rfl
@[simp] theorem State.bank_deliver (s : State) (r : Response) (b : Bank) : (s.deliver r).bank b = s.bank b := by
  cases b <;> rfl
@[simp] theorem State.bank_ok (s : State) (v : Nat) (b : Bank) : (s.ok v).bank b = s.bank b := by cases b <;> rfl
@[simp] theorem State.bank_recordError (s : State) (e : ErrorKind) (b : Bank) :
    (s.recordError e).bank b = s.bank b := by
  cases b <;> rfl
@[simp] theorem State.bank_failed (s : State) (n : Nat) (b : Bank) : (s.failed n).bank b = s.bank b := by
  cases b <;> rfl
@[simp] theorem State.bank_clearPacker (s : State) (b : Bank) : s.clearPacker.bank b = s.bank b := by cases b <;> rfl
@[simp] theorem State.bank_placeElement (s : State) (w v : Nat) (b : Bank) :
    (s.placeElement w v).bank b = s.bank b := by
  cases b <;> rfl
@[simp] theorem State.bank_clearAll (s : State) (b : Bank) : s.clearAll.bank b = BankState.reset := by
  cases b <;> rfl
@[simp] theorem State.bank_discardWords_same (s : State) (b : Bank) :
    (s.discardWords b).bank b = { s.bank b with nw := 0, mem := [] } := by
  simp [State.discardWords]
theorem State.bank_discardWords_other (s : State) {b c : Bank} (h : c ≠ b) :
    (s.discardWords b).bank c = s.bank c := State.bank_setBank_other s _ h
@[simp] theorem State.bank_openPacker_same (s : State) (b : Bank) :
    (s.openPacker b).bank b = { s.bank b with nw := 0, mem := [] } := by
  cases b <;> rfl
theorem State.bank_openPacker_other (s : State) {b c : Bank} (h : c ≠ b) :
    (s.openPacker b).bank c = s.bank c := by
  cases b <;> cases c <;> first | rfl | exact absurd rfl h
@[simp] theorem State.bank_abortConstruction_same (s : State) :
    s.abortConstruction.bank s.pkBank = { s.bank s.pkBank with nw := 0, mem := [] } := by
  simp [State.abortConstruction]
theorem State.bank_abortConstruction_other (s : State) {c : Bank} (h : c ≠ s.pkBank) :
    s.abortConstruction.bank c = s.bank c := by
  simp [State.abortConstruction, State.bank_discardWords_other s h]
@[simp] theorem State.bank_sealConstruction_same (s : State) :
    s.sealConstruction.bank s.pkBank = { s.bank s.pkBank with len := s.pkCount, isSealed := true } := by
  simp [State.sealConstruction]
theorem State.bank_sealConstruction_other (s : State) {c : Bank} (h : c ≠ s.pkBank) :
    s.sealConstruction.bank c = s.bank c := by
  simp [State.sealConstruction, State.bank_setBank_other s _ h]

/-! ### `init` -/

@[simp] theorem State.bank_init (p : Params) (b : Bank) : (State.init p).bank b = BankState.reset := by
  cases b <;> rfl
@[simp] theorem State.params_init (p : Params) : (State.init p).params = p := rfl
@[simp] theorem State.key_init (p : Params) : (State.init p).key = BankState.reset := rfl
@[simp] theorem State.val_init (p : Params) : (State.init p).val = BankState.reset := rfl
@[simp] theorem State.pkCount_init (p : Params) : (State.init p).pkCount = 0 := rfl
@[simp] theorem State.err_init (p : Params) : (State.init p).err = 0#12 := rfl
@[simp] theorem State.pkActive_init (p : Params) : (State.init p).pkActive = false := rfl
@[simp] theorem State.pkBank_init (p : Params) : (State.init p).pkBank = .key := rfl
@[simp] theorem State.acc_init (p : Params) : (State.init p).acc = 0 := rfl
@[simp] theorem State.cnt_init (p : Params) : (State.init p).cnt = 0 := rfl
@[simp] theorem State.port_init (p : Params) : (State.init p).port = [] := rfl
@[simp] theorem State.responses_init (p : Params) : (State.init p).responses = [] := rfl
@[simp] theorem BankState.w_reset : BankState.reset.w = 0 := rfl
@[simp] theorem BankState.len_reset : BankState.reset.len = 0 := rfl
@[simp] theorem BankState.nw_reset : BankState.reset.nw = 0 := rfl
@[simp] theorem BankState.isSealed_reset : BankState.reset.isSealed = false := rfl
@[simp] theorem BankState.mem_reset : BankState.reset.mem = [] := rfl

end Sys2Proof.Machine
end

