-- ==== Sys2Proof/Laws/Memory.lean ====
section
/-! SUPPORT. The laws of a bank's memory: a read after a write, and that every memory operation keeps the canonical form
(20_memory.md rules R76, R77, R79). -/

namespace Sys2Proof.Machine

@[simp] theorem Memory.read_nil (a : Nat) : Memory.read [] a = none := rfl

@[simp] theorem Memory.read_write_same (m : Memory) (a : Nat) (v : Nat) : (m.write a v).read a = some v := by
  induction m with
  | nil => simp [Memory.write, Memory.read]
  | cons c m ih =>
    obtain ⟨x, u⟩ := c
    unfold Memory.write
    split
    · simp [Memory.read]
    · split
      · simp [Memory.read]
      · next h => simp [Memory.read, Ne.symm h, ih]

theorem Memory.read_write_other (m : Memory) {a c : Nat} (v : Nat) (h : c ≠ a) :
    (m.write a v).read c = m.read c := by
  induction m with
  | nil => simp [Memory.write, Memory.read, h.symm]
  | cons p m ih =>
    obtain ⟨x, u⟩ := p
    unfold Memory.write
    split
    · simp [Memory.read, h.symm]
    · split
      · next h2 => subst h2; simp [Memory.read, h.symm]
      · simp only [Memory.read, ih]

/-- Where the addresses listed are below the address written, a write appends. -/
theorem Memory.write_append (m : Memory) (a : Nat) (v : Nat) (h : ∀ c ∈ m, c.1 < a) :
    m.write a v = m ++ [(a, v)] := by
  induction m with
  | nil => rfl
  | cons p m ih =>
    obtain ⟨x, u⟩ := p
    have hx : x < a := h (x, u) (by simp)
    have hm : ∀ c ∈ m, c.1 < a := fun c hc => h c (by simp [hc])
    simp [Memory.write, ih hm, Nat.not_lt.mpr hx.le, Nat.ne_of_gt hx]

/-- A memory that lists exactly the addresses `0 .. n-1` lists no other address. -/
theorem Memory.addr_lt_of_range {m : Memory} {n : Nat} (h : m.map Prod.fst = List.range n) :
    ∀ c ∈ m, c.1 < n := fun c hc => by
  have : c.1 ∈ m.map Prod.fst := List.mem_map_of_mem hc
  simpa [h] using this

/-- Writing word `n` of a memory that lists exactly `0 .. n-1` lists exactly `0 .. n`. -/
theorem Memory.addresses_write {m : Memory} {n : Nat} (h : m.map Prod.fst = List.range n) (v : Nat) :
    (m.write n v).map Prod.fst = List.range (n + 1) := by
  rw [Memory.write_append m n v (Memory.addr_lt_of_range h)]
  simp [h, List.range_succ]

/-- What a read answers is listed. -/
theorem Memory.mem_of_read {m : Memory} {a : Nat} {v : Nat} (h : m.read a = some v) : (a, v) ∈ m := by
  induction m with
  | nil => simp at h
  | cons p m ih =>
    obtain ⟨x, u⟩ := p
    unfold Memory.read at h
    split at h
    · next hx => simp_all
    · exact List.mem_cons_of_mem _ (ih h)

/-- A listed address is read. -/
theorem Memory.read_isSome {m : Memory} {a : Nat} (h : a ∈ m.map Prod.fst) : ∃ v, m.read a = some v := by
  induction m with
  | nil => simp at h
  | cons p m ih =>
    obtain ⟨x, u⟩ := p
    unfold Memory.read
    split
    · exact ⟨u, rfl⟩
    · next hx => exact ih (by simpa [Ne.symm hx] using h)

/-- The `a`-th word of a memory that lists exactly `0 .. n-1` is the one read at `a`. -/
theorem Memory.read_eq_getElem? {m : Memory} {n : Nat} (h : m.map Prod.fst = List.range n) (a : Nat) :
    m.read a = (m.map Prod.snd)[a]? := by
  induction m using List.reverseRecOn generalizing n with
  | nil => simp
  | append_singleton m c ih =>
    obtain ⟨x, u⟩ := c
    have hlen : m.length + 1 = n := by simpa using congrArg List.length h
    subst hlen
    simp only [List.map_append, List.map_cons, List.map_nil, List.range_succ] at h
    obtain ⟨hm, hx⟩ := List.append_inj' h rfl
    have hx : x = m.length := by simpa using hx
    subst hx
    conv_lhs => rw [← Memory.write_append m _ u (Memory.addr_lt_of_range hm)]
    by_cases ha : a = m.length
    · subst ha; simp
    · rw [Memory.read_write_other m u ha, ih hm]
      rcases Nat.lt_or_gt_of_ne ha with hl | hl
      · simp [List.getElem?_append_left, hl]
      · have h2 : m.length + 1 ≤ a := hl
        simp [List.getElem?_eq_none, h2, hl.le]

/-! ### The canonical form -/

theorem Memory.wf_iff (m : Memory) : m.wf = true ↔ m.Pairwise fun x y => x.1 < y.1 := by simp [Memory.wf]

theorem Memory.wf_nil : Memory.wf [] = true := rfl

/-- Every address of a written memory is the address written or was listed before. -/
theorem Memory.mem_write {m : Memory} {a : Nat} {v : Nat} {c : Nat × Nat} (h : c ∈ m.write a v) :
    c = (a, v) ∨ c ∈ m := by
  induction m with
  | nil => simpa [Memory.write] using h
  | cons p m ih =>
    obtain ⟨x, u⟩ := p
    unfold Memory.write at h
    split at h
    · simpa using h
    · split at h
      · rcases List.mem_cons.mp h with h | h
        · exact .inl h
        · exact .inr (List.mem_cons_of_mem _ h)
      · rcases List.mem_cons.mp h with h | h
        · exact .inr (by simp [h])
        · exact (ih h).imp id (List.mem_cons_of_mem _)

/-- A write keeps the canonical form. -/
theorem Memory.wf_write {m : Memory} (h : m.wf = true) (a : Nat) (v : Nat) : (m.write a v).wf = true := by
  rw [Memory.wf_iff] at *
  induction m with
  | nil => simp [Memory.write]
  | cons p m ih =>
    obtain ⟨x, u⟩ := p
    obtain ⟨hx, hm⟩ := List.pairwise_cons.mp h
    unfold Memory.write
    split
    · next hax =>
      refine List.pairwise_cons.mpr ⟨fun c hc => ?_, h⟩
      rcases List.mem_cons.mp hc with rfl | hc
      · exact hax
      · exact Nat.lt_trans hax (hx c hc)
    · split
      · next hax => subst hax; exact List.pairwise_cons.mpr ⟨hx, hm⟩
      · next h1 h2 =>
        refine List.pairwise_cons.mpr ⟨fun c hc => ?_, ih hm⟩
        rcases Memory.mem_write hc with rfl | hc
        · exact Nat.lt_of_le_of_ne (Nat.le_of_not_lt h1) (Ne.symm h2)
        · exact hx c hc

/-- A memory that lists exactly `0 .. n-1` is in canonical form. -/
theorem Memory.wf_of_range {m : Memory} {n : Nat} (h : m.map Prod.fst = List.range n) : m.wf = true := by
  rw [Memory.wf_iff, ← List.pairwise_map (f := Prod.fst) (R := fun a b => a < b), h]
  exact List.pairwise_lt_range

theorem State.memWf_init (p : Params) : (State.init p).MemWf := fun b => by simp [Memory.wf_nil]

theorem State.memWf_setBank {s : State} (h : s.MemWf) {b : Bank} {x : BankState} (hx : x.mem.wf = true) :
    (s.setBank b x).MemWf := fun c => by
  by_cases hc : c = b
  · subst hc; simpa using hx
  · rw [State.bank_setBank_other s x hc]; exact h c

theorem State.memWf_discardWords {s : State} (h : s.MemWf) (b : Bank) : (s.discardWords b).MemWf :=
  State.memWf_setBank h Memory.wf_nil

theorem State.memWf_clearAll (s : State) : s.clearAll.MemWf := fun b => by simp [Memory.wf_nil]

end Sys2Proof.Machine
end

