-- ==== Sys2Proof/Laws/Ops.lean ====
section
/-! SUPPORT. One lemma per shared operation: everything it can do (20_memory.md rules R76, R77; 60_exceptions.md rule
R190). -/

namespace Sys2Proof.Machine

/-! ### Responses and errors -/

theorem State.deliver_success (s : State) (v : Nat) : s.deliver ⟨0#8, v⟩ = s.ok v := rfl

/-- `zext` of a value that fits is the value. -/
theorem zext_of_lt {n v : Nat} (h : v < 2 ^ n) : zext n v = v := by simp [zext, h]

/-- `zext` fits, whatever the free value is. -/
theorem zext_lt (n v : Nat) : zext n v < 2 ^ n := by
  unfold zext
  split
  · assumption
  · exact Nat.mod_lt _ (Nat.two_pow_pos n)

@[simp] theorem zext_zero (n : Nat) : zext n 0 = 0 := zext_of_lt (Nat.two_pow_pos n)

theorem State.respond_eq (s : State) (v : Nat) : s.respond v = .next (s.ok (zext s.params.wordBits v)) := rfl

theorem State.respond_of_lt (s : State) {v : Nat} (h : v < 2 ^ s.params.wordBits) : s.respond v = .next (s.ok v) := by
  rw [State.respond_eq, zext_of_lt h]

@[simp] theorem State.respond_zero (s : State) : s.respond 0 = .next (s.ok 0) :=
  s.respond_of_lt (Nat.two_pow_pos _)

theorem State.raise_eq (s : State) (e : ErrorKind) : s.raise e = .next (s.failed (errorCode e)) := rfl

theorem State.respond_next {s t : State} {v : Nat} (h : s.respond v = .next t) :
    ∃ d, d < 2 ^ s.params.wordBits ∧ t = s.ok d :=
  ⟨zext s.params.wordBits v, zext_lt _ _, by cases h; rfl⟩

theorem State.raise_next {s t : State} {e : ErrorKind} (h : s.raise e = .next t) : t = s.failed (errorCode e) := by
  cases h; rfl

/-- Every error code is one of 1 to 11 (60_exceptions.md rule R180). -/
theorem errorCode_range (e : ErrorKind) : 1 ≤ errorCode e ∧ errorCode e ≤ 11 := by cases e <;> decide

/-! ### Words -/

theorem State.word?_of_lt {s : State} {b : Bank} {a : Nat} (h : a < (s.bank b).nw) :
    s.word? b a = (s.bank b).mem.read a := by simp [State.word?, h]

theorem State.word?_of_ge {s : State} {b : Bank} {a : Nat} (h : (s.bank b).nw ≤ a) : s.word? b a = none := by
  simp [State.word?, Nat.not_lt.mpr h]

/-- Bank `b` after `appendWord` (20_memory.md rule R77). -/
def BankState.appended (x : BankState) (v : Nat) : BankState :=
  { x with nw := x.nw + 1, mem := x.mem.write x.nw v }

/-- `appendWord` answers exactly where the word exists and the value is a word. -/
theorem State.appendWord_ok_iff {s t : State} {b : Bank} {v : Nat} :
    s.appendWord b v = .ok t ↔
      (s.bank b).nw < s.cap b ∧ v < 2 ^ s.params.wordBits ∧ t = s.setBank b ((s.bank b).appended v) := by
  unfold State.appendWord BankState.appended
  split
  · split
    · next h1 h2 => simp [h1, h2, eq_comm]
    · next h1 h2 => simp [h2]
  · next h1 => simp [h1]

theorem State.appendWord_of_room {s : State} {b : Bank} {v : Nat} (h1 : (s.bank b).nw < s.cap b)
    (h2 : v < 2 ^ s.params.wordBits) : s.appendWord b v = .ok (s.setBank b ((s.bank b).appended v)) :=
  State.appendWord_ok_iff.mpr ⟨h1, h2, rfl⟩

/-- After `appendWord` only the word at `NW[b]` is read differently. -/
theorem State.word?_appended (s : State) (b : Bank) (v : Nat) (c : Bank) (a : Nat) :
    (s.setBank b ((s.bank b).appended v)).word? c a =
      if c = b ∧ a = (s.bank b).nw then some v else s.word? c a := by
  by_cases hc : c = b
  · subst hc
    simp only [State.word?, State.bank_setBank_same, BankState.appended, true_and]
    by_cases ha : a = (s.bank c).nw
    · subst ha; simp
    · rw [Memory.read_write_other _ _ ha]
      have h : a < (s.bank c).nw + 1 ↔ a < (s.bank c).nw := by omega
      simp [ha, h]
  · simp [State.word?, State.bank_setBank_other s _ hc, hc]

theorem State.memWf_appended {s : State} (h : s.MemWf) (b : Bank) (v : Nat) :
    (s.setBank b ((s.bank b).appended v)).MemWf :=
  State.memWf_setBank h (Memory.wf_write (h b) _ _)

/-- `appendWord` keeps the canonical form. -/
theorem State.memWf_appendWord {s t : State} {b : Bank} {v : Nat} (h : s.MemWf) (ht : s.appendWord b v = .ok t) :
    t.MemWf := by
  obtain ⟨-, -, rfl⟩ := State.appendWord_ok_iff.mp ht
  exact State.memWf_appended h b v

/-- `flushWord` answers exactly where the staging word can be written. -/
theorem State.flushWord_ok_iff {s t : State} :
    s.flushWord = .ok t ↔
      (s.bank s.pkBank).nw < s.cap s.pkBank ∧ s.acc < 2 ^ s.params.wordBits ∧
        t = { s.setBank s.pkBank ((s.bank s.pkBank).appended s.acc) with acc := 0, cnt := 0 } := by
  unfold State.flushWord
  constructor
  · intro h
    split at h
    · next t' ht =>
      obtain ⟨h1, h2, rfl⟩ := State.appendWord_ok_iff.mp ht
      cases h
      exact ⟨h1, h2, rfl⟩
    · cases h
  · rintro ⟨h1, h2, rfl⟩
    rw [State.appendWord_of_room h1 h2]

/-! ### Operands -/

theorem State.width?_eq_some {s : State} {b : Bank} {w : Nat} :
    s.width? b = some w ↔ (s.bank b).w = w ∧ 1 ≤ w ∧ w ≤ s.params.wordBits := by
  unfold State.width?
  split
  · next h => exact ⟨fun e => by cases e; exact ⟨rfl, h⟩, fun e => by rw [e.1]⟩
  · next h => exact ⟨nofun, fun e => absurd (e.1 ▸ e.2) h⟩

theorem State.width?_of_range {s : State} {b : Bank} (h1 : 1 ≤ (s.bank b).w) (h2 : (s.bank b).w ≤ s.params.wordBits) :
    s.width? b = some (s.bank b).w := State.width?_eq_some.mpr ⟨rfl, h1, h2⟩

/-- An element read is one lane of one word. -/
theorem State.element_eq_ok {s : State} {b : Bank} {i v : Nat} :
    s.element b i = .ok v ↔
      1 ≤ (s.bank b).w ∧ (s.bank b).w ≤ s.params.wordBits ∧
        ∃ word, s.word? b (wordIndex s.params.wordBits (s.bank b).w i) = some word ∧
          v = lane (s.bank b).w word (offsetInWord s.params.wordBits (s.bank b).w i) := by
  unfold State.element
  constructor
  · intro h
    split at h
    · cases h
    · next w hw =>
      obtain ⟨rfl, h1, h2⟩ := State.width?_eq_some.mp hw
      split at h
      · cases h
      · next word hword => cases h; exact ⟨h1, h2, word, hword, rfl⟩
  · rintro ⟨h1, h2, word, hword, rfl⟩
    simp [State.width?_of_range h1 h2, hword]

/-- A lane is below `2^W` (42_unpacker.md rule R130). -/
theorem lane_lt (w : Nat) (word : Nat) (j : Nat) : lane w word j < 2 ^ w := by
  simp only [lane, mask, Nat.and_two_pow_sub_one_eq_mod]
  exact Nat.mod_lt _ (Nat.two_pow_pos w)

theorem csrOfNumber_eq_none {n : Fin 16} : csrOfNumber n = none ↔ n ∈ [3, 13, 14, 15] := by
  revert n; decide

/-! ### The ports -/

theorem State.takeEvent_nil {s : State} (h : s.port = []) : s.takeEvent = none := by simp [State.takeEvent, h]

theorem State.takeEvent_cons {s : State} {e : HostEvent} {rest : List HostEvent} (h : s.port = e :: rest) :
    s.takeEvent = some (e, { s with port := rest }) := by simp [State.takeEvent, h]

end Sys2Proof.Machine
end

