-- ==== Sys2Proof/Laws/Commands.lean ====
section
/-! SUPPORT. One inversion lemma per command: every way it can answer a next state (41_packer.md, 42_unpacker.md,
43_dictmap.md, 44_system.md). Later proofs cite these and do not unfold the meanings. -/

namespace Sys2Proof.Machine

theorem execNop_next {s t : State} (h : execNop s = .next t) : t = s.ok 0 := by
  simpa [execNop, eq_comm] using h

theorem execRst_next {s t : State} (h : execRst s = .next t) : t = s.clearAll.ok 0 := by
  simpa [execRst, eq_comm] using h

theorem execCsrr_next {csr : Fin 16} {s t : State} (h : execCsrr csr s = .next t) :
    (csrOfNumber csr = none ∧ t = s.failed 4) ∨
      ∃ c v, csrOfNumber csr = some c ∧ s.csrValue c = .ok v ∧ t = s.ok (zext s.params.wordBits v) := by
  unfold execCsrr at h
  split at h
  · next hc => exact .inl ⟨hc, State.raise_next h⟩
  · next c hc =>
    split at h
    · next v hv => cases h; exact .inr ⟨c, v, hc, hv, rfl⟩
    · cases h

theorem execCsrw_next {csr : Fin 16} {value : Nat} {s t : State} (h : execCsrw csr value s = .next t) :
    ((csrOfNumber csr).bind csrTarget = none ∧ t = s.failed 4) ∨
      ∃ g, (csrOfNumber csr).bind csrTarget = some g ∧
        ((s.pkActive = true ∧ t = s.failed 7) ∨
          (s.pkActive = false ∧ (s.bank (targetBank g)).isSealed = true ∧ t = s.failed 5) ∨
          (s.pkActive = false ∧ (s.bank (targetBank g)).isSealed = false ∧
            targetAccepts s.params g value = false ∧ t = s.failed 8) ∨
          (s.pkActive = false ∧ (s.bank (targetBank g)).isSealed = false ∧
            targetAccepts s.params g value = true ∧ t = (s.writeTarget g value).ok 0)) := by
  unfold execCsrw at h
  split at h
  · next hc => exact .inl ⟨by simp [hc], State.raise_next h⟩
  · next c hc =>
    split at h
    · next hg => exact .inl ⟨by simp [hc, hg], State.raise_next h⟩
    · next g hg =>
      refine .inr ⟨g, by simp [hc, hg], ?_⟩
      split at h
      · next h1 => exact .inl ⟨h1, State.raise_next h⟩
      · next h1 =>
        split at h
        · next h2 => exact .inr (.inl ⟨by simpa using h1, h2, State.raise_next h⟩)
        · next h2 =>
          split at h
          · next h3 =>
            exact .inr (.inr (.inr ⟨by simpa using h1, by simpa using h2, h3, by simpa [eq_comm] using h⟩))
          · next h3 =>
            exact .inr (.inr (.inl ⟨by simpa using h1, by simpa using h2, by simpa using h3, State.raise_next h⟩))

theorem execPkbegin_next {b : Bank} {s t : State} (h : execPkbegin b s = .next t) :
    (s.pkActive = true ∧ t = s.failed 7) ∨
      (s.pkActive = false ∧ (s.bank b).isSealed = true ∧ t = s.failed 5) ∨
      (s.pkActive = false ∧ (s.bank b).isSealed = false ∧ (s.bank b).w = 0 ∧ t = s.failed 8) ∨
      (s.pkActive = false ∧ (s.bank b).isSealed = false ∧ (s.bank b).w ≠ 0 ∧ t = (s.openPacker b).ok 0) := by
  unfold execPkbegin at h
  split at h
  · next h1 => exact .inl ⟨h1, State.raise_next h⟩
  · next h1 =>
    split at h
    · next h2 => exact .inr (.inl ⟨by simpa using h1, h2, State.raise_next h⟩)
    · next h2 =>
      split at h
      · next h3 => exact .inr (.inr (.inl ⟨by simpa using h1, by simpa using h2, h3, State.raise_next h⟩))
      · next h3 =>
        exact .inr (.inr (.inr ⟨by simpa using h1, by simpa using h2, h3, by simpa [eq_comm] using h⟩))

theorem execPkpush_next {v : Nat} {s t : State} (h : execPkpush v s = .next t) :
    (s.pkActive = false ∧ t = s.failed 7) ∨
      (s.pkActive = true ∧ ∃ w, s.width? s.pkBank = some w ∧
        ((2 ^ w ≤ v ∧ t = s.abortConstruction.failed 1) ∨
          (v < 2 ^ w ∧ (s.bank s.pkBank).nw = s.cap s.pkBank ∧ t = s.abortConstruction.failed 9) ∨
          (v < 2 ^ w ∧ (s.bank s.pkBank).nw ≠ s.cap s.pkBank ∧ s.cnt + 1 = epw s.params.wordBits w ∧
            ∃ u, (s.placeElement w v).flushWord = .ok u ∧ t = u.ok 0) ∨
          (v < 2 ^ w ∧ (s.bank s.pkBank).nw ≠ s.cap s.pkBank ∧ s.cnt + 1 ≠ epw s.params.wordBits w ∧
            t = (s.placeElement w v).ok 0))) := by
  unfold execPkpush at h
  split at h
  · next h1 =>
    refine .inr ⟨h1, ?_⟩
    split at h
    · cases h
    · next w hw =>
      refine ⟨w, hw, ?_⟩
      split at h
      · next h2 => exact .inl ⟨h2, State.raise_next h⟩
      · next h2 =>
        have h2 : v < 2 ^ w := Nat.lt_of_not_le h2
        split at h
        · next h3 => exact .inr (.inl ⟨h2, h3, State.raise_next h⟩)
        · next h3 =>
          split at h
          · next h4 =>
            split at h
            · next u hu => exact .inr (.inr (.inl ⟨h2, h3, h4, u, hu, by simpa [eq_comm] using h⟩))
            · cases h
          · next h4 => exact .inr (.inr (.inr ⟨h2, h3, h4, by simpa [eq_comm] using h⟩))
  · next h1 => exact .inl ⟨by simpa using h1, State.raise_next h⟩

theorem execPkend_next {s t : State} (h : execPkend s = .next t) :
    (s.pkActive = false ∧ t = s.failed 7) ∨
      (s.pkActive = true ∧ s.cnt = 0 ∧ t = s.sealConstruction.ok 0) ∨
      (s.pkActive = true ∧ 0 < s.cnt ∧ ∃ u, s.flushWord = .ok u ∧ t = u.sealConstruction.ok 0) := by
  unfold execPkend at h
  split at h
  · next h1 =>
    split at h
    · next h2 =>
      split at h
      · next u hu => exact .inr (.inr ⟨h1, h2, u, hu, by simpa [eq_comm] using h⟩)
      · cases h
    · next h2 => exact .inr (.inl ⟨h1, by omega, by simpa [eq_comm] using h⟩)
  · next h1 => exact .inl ⟨by simpa using h1, State.raise_next h⟩

theorem execLdword_next {b : Bank} {v : Nat} {s t : State} (h : execLdword b v s = .next t) :
    (s.pkActive = true ∧ t = s.failed 7) ∨
      (s.pkActive = false ∧ (s.bank b).isSealed = true ∧ t = s.failed 5) ∨
      (s.pkActive = false ∧ (s.bank b).isSealed = false ∧ (s.bank b).nw = s.cap b ∧ t = s.failed 9) ∨
      (s.pkActive = false ∧ (s.bank b).isSealed = false ∧ (s.bank b).nw < s.cap b ∧ v < 2 ^ s.params.wordBits ∧
        t = (s.setBank b ((s.bank b).appended v)).ok 0) := by
  unfold execLdword at h
  split at h
  · next h1 => exact .inl ⟨h1, State.raise_next h⟩
  · next h1 =>
    split at h
    · next h2 => exact .inr (.inl ⟨by simpa using h1, h2, State.raise_next h⟩)
    · next h2 =>
      split at h
      · next h3 => exact .inr (.inr (.inl ⟨by simpa using h1, by simpa using h2, h3, State.raise_next h⟩))
      · split at h
        · next u hu =>
          obtain ⟨h4, h5, rfl⟩ := State.appendWord_ok_iff.mp hu
          exact .inr (.inr (.inr ⟨by simpa using h1, by simpa using h2, h4, h5, by simpa [eq_comm] using h⟩))
        · cases h

theorem execSealBank_next {b : Bank} {s t : State} (h : execSealBank b s = .next t) :
    (s.pkActive = true ∧ t = s.failed 7) ∨
      (s.pkActive = false ∧ (s.bank b).isSealed = true ∧ t = s.failed 5) ∨
      (s.pkActive = false ∧ (s.bank b).isSealed = false ∧ (s.bank b).w = 0 ∧ t = s.failed 8) ∨
      (s.pkActive = false ∧ (s.bank b).isSealed = false ∧ 1 ≤ (s.bank b).w ∧ (s.bank b).w ≤ s.params.wordBits ∧
        (((s.bank b).nw ≠ arrayWords s.params.wordBits (s.bank b).w (s.bank b).len ∧ t = s.failed 10) ∨
          ((s.bank b).nw = arrayWords s.params.wordBits (s.bank b).w (s.bank b).len ∧
            t = (s.setBank b { s.bank b with isSealed := true }).ok 0))) := by
  unfold execSealBank at h
  split at h
  · next h1 => exact .inl ⟨h1, State.raise_next h⟩
  · next h1 =>
    split at h
    · next h2 => exact .inr (.inl ⟨by simpa using h1, h2, State.raise_next h⟩)
    · next h2 =>
      split at h
      · next h3 => exact .inr (.inr (.inl ⟨by simpa using h1, by simpa using h2, h3, State.raise_next h⟩))
      · split at h
        · cases h
        · next w hw =>
          obtain ⟨rfl, h4, h5⟩ := State.width?_eq_some.mp hw
          refine .inr (.inr (.inr ⟨by simpa using h1, by simpa using h2, h4, h5, ?_⟩))
          split at h
          · next h6 => exact .inl ⟨h6, State.raise_next h⟩
          · next h6 => exact .inr ⟨by simpa using h6, by simpa [eq_comm] using h⟩

theorem execRdword_next {b : Bank} {a : Nat} {s t : State} (h : execRdword b a s = .next t) :
    ((s.bank b).nw ≤ a ∧ t = s.failed 11) ∨
      (a < (s.bank b).nw ∧ ∃ word, s.word? b a = some word ∧ t = s.ok (zext s.params.wordBits word)) := by
  unfold execRdword at h
  split at h
  · next h1 => exact .inl ⟨h1, State.raise_next h⟩
  · next h1 =>
    split at h
    · cases h
    · next word hword => cases h; exact .inr ⟨Nat.lt_of_not_le h1, word, hword, rfl⟩

theorem execUnpack_next {b : Bank} {i : Nat} {s t : State} (h : execUnpack b i s = .next t) :
    ((s.bank b).isSealed = false ∧ t = s.failed 6) ∨
      ((s.bank b).isSealed = true ∧ (s.bank b).len ≤ i ∧ t = s.failed 2) ∨
      ((s.bank b).isSealed = true ∧ i < (s.bank b).len ∧
        ∃ v, s.element b i = .ok v ∧ t = s.ok (zext s.params.wordBits v)) := by
  unfold execUnpack at h
  split at h
  · next h1 =>
    split at h
    · next h2 => exact .inr (.inl ⟨h1, h2, State.raise_next h⟩)
    · next h2 =>
      split at h
      · next v hv => cases h; exact .inr (.inr ⟨h1, Nat.lt_of_not_le h2, v, hv, rfl⟩)
      · cases h
  · next h1 => exact .inl ⟨by simpa using h1, State.raise_next h⟩

theorem execGet_next {key : Nat} {s t : State} (h : execGet key s = .next t) :
    ((s.key.isSealed = false ∨ s.val.isSealed = false) ∧ t = s.failed 6) ∨
      (s.key.isSealed = true ∧ s.val.isSealed = true ∧
        ((s.key.len ≤ key ∧ t = s.failed 3) ∨
          (key < s.key.len ∧ ∃ idx, s.element .key key = .ok idx ∧
            ((s.val.len ≤ idx ∧ t = s.failed 2) ∨
              (idx < s.val.len ∧ ∃ v, s.element .val idx = .ok v ∧ t = s.ok (zext s.params.wordBits v)))))) := by
  unfold execGet at h
  split at h
  · next h1 =>
    obtain ⟨hk, hv⟩ : s.key.isSealed = true ∧ s.val.isSealed = true := by simpa using h1
    refine .inr ⟨hk, hv, ?_⟩
    split at h
    · next h2 => exact .inl ⟨h2, State.raise_next h⟩
    · next h2 =>
      refine .inr ⟨Nat.lt_of_not_le h2, ?_⟩
      split at h
      · cases h
      · next idx hidx =>
        refine ⟨idx, hidx, ?_⟩
        split at h
        · next h3 => exact .inl ⟨h3, State.raise_next h⟩
        · next h3 =>
          refine .inr ⟨Nat.lt_of_not_le h3, ?_⟩
          split at h
          · cases h
          · next v hv => cases h; exact ⟨v, hv, rfl⟩
  · next h1 =>
    refine .inl ⟨?_, State.raise_next h⟩
    cases hk : s.key.isSealed
    · exact .inl rfl
    · exact .inr (by simpa [hk] using h1)

/-- Every way a step can answer a next state: it waits, it is reset, it executes the command decoded, or it refuses a
reserved op byte by an error response. -/
theorem step_next {s t : State} (h : step s = .next t) :
    s.params.Legal ∧
      ((s.port = [] ∧ t = s) ∨
        (∃ lost rest, s.port = .reset lost :: rest ∧ t = ({ s with port := rest } : State).clearAll) ∨
        (∃ bits rest i, s.port = .command bits :: rest ∧ decode s.params bits = .instr i ∧
          exec i { s with port := rest } = .next t) ∨
        (∃ bits rest op, s.port = .command bits :: rest ∧ decode s.params bits = .reservedOp op ∧
          t = ({ s with port := rest } : State).failed 4)) := by
  unfold step at h
  split at h
  · next hl =>
    refine ⟨hl, ?_⟩
    split at h
    · next he =>
      cases h
      refine .inl ⟨?_, rfl⟩
      unfold State.takeEvent at he
      split at he
      · assumption
      · cases he
    · next lost u he =>
      unfold State.takeEvent at he
      split at he
      · cases he
      · next e rest hp => cases he; cases h; exact .inr (.inl ⟨lost, rest, hp, rfl⟩)
    · next bits u he =>
      unfold State.takeEvent at he
      split at he
      · cases he
      · next e rest hp =>
        cases he
        split at h
        · next i hi => exact .inr (.inr (.inl ⟨bits, rest, i, hp, hi, h⟩))
        · next op ho => exact .inr (.inr (.inr ⟨bits, rest, op, hp, ho, State.raise_next h⟩))
  · cases h

end Sys2Proof.Machine
end

