-- ==== Sys2Proof/Laws/PerInstr.lean ====
section
/-! SUPPORT. Statements about every command as syntax, one lemma per constructor. `EncodingFits`: the encoding of a
well-formed command fits the command length of 30_encoding.md rule R90. -/

namespace Sys2Proof.Laws

theorem joinCommand_lt (p : Params) {c : Command} (h1 : c.op < 256) (h2 : c.idx < 2 ^ p.idxBits)
    (h3 : c.data < 2 ^ p.wordBits) : joinCommand p c < 2 ^ cmdBits p := by
  unfold joinCommand cmdBits
  have h4 : c.op * 2 ^ p.idxBits + c.idx + 1 ≤ 256 * 2 ^ p.idxBits :=
    calc c.op * 2 ^ p.idxBits + c.idx + 1 ≤ c.op * 2 ^ p.idxBits + 2 ^ p.idxBits := by omega
      _ = (c.op + 1) * 2 ^ p.idxBits := by ring
      _ ≤ 256 * 2 ^ p.idxBits := Nat.mul_le_mul_right _ h1
  calc (c.op * 2 ^ p.idxBits + c.idx) * 2 ^ p.wordBits + c.data
      < (c.op * 2 ^ p.idxBits + c.idx + 1) * 2 ^ p.wordBits := by rw [Nat.succ_mul]; omega
    _ ≤ 256 * 2 ^ p.idxBits * 2 ^ p.wordBits := Nat.mul_le_mul_right _ h4
    _ = 2 ^ (8 + p.idxBits + p.wordBits) := by rw [Nat.pow_add, Nat.pow_add]

/-- Every op byte is a byte. -/
theorem opByte_lt (i : Instr) : opByte i < 256 := by
  have hb : ∀ b : Bank, bankNumber b ≤ 1 := fun b => by cases b <;> decide
  cases i <;> simp only [opByte] <;> first
    | decide
    | (next c => have := c.isLt; omega)
    | (next c _ => have := c.isLt; omega)
    | (next b => have := hb b; omega)
    | (next b _ => have := hb b; omega)

theorem encode_lt (p : Params) {i : Instr} (h1 : (commandOf i).op = opByte i) (h2 : (commandOf i).idx < 2 ^ p.idxBits)
    (h3 : (commandOf i).data < 2 ^ p.wordBits) : encode p i < 2 ^ cmdBits p :=
  joinCommand_lt p (h1 ▸ opByte_lt i) h2 h3

/-- The encoding of a command whose operands fit fits the command length, for all parameters. -/
def EncodingFits.Statement (i : Instr) : Prop := ∀ p : Params, i.WellFormed p → encode p i < 2 ^ cmdBits p

theorem EncodingFits.nop : EncodingFits.Statement .nop := fun p _ =>
  encode_lt p rfl (Nat.two_pow_pos _) (Nat.two_pow_pos _)

theorem EncodingFits.csrr (csr : Fin 16) : EncodingFits.Statement (.csrr csr) := fun p _ =>
  encode_lt p rfl (Nat.two_pow_pos _) (Nat.two_pow_pos _)

theorem EncodingFits.csrw (csr : Fin 16) (value : Nat) : EncodingFits.Statement (.csrw csr value) := fun p h =>
  encode_lt p rfl (Nat.two_pow_pos _) (of_decide_eq_true h)

theorem EncodingFits.pkbegin (bank : Bank) : EncodingFits.Statement (.pkbegin bank) := fun p _ =>
  encode_lt p rfl (Nat.two_pow_pos _) (Nat.two_pow_pos _)

theorem EncodingFits.pkpush (value : Nat) : EncodingFits.Statement (.pkpush value) := fun p h =>
  encode_lt p rfl (Nat.two_pow_pos _) (of_decide_eq_true h)

theorem EncodingFits.pkend : EncodingFits.Statement .pkend := fun p _ =>
  encode_lt p rfl (Nat.two_pow_pos _) (Nat.two_pow_pos _)

theorem EncodingFits.ldword (bank : Bank) (word : Nat) : EncodingFits.Statement (.ldword bank word) := fun p h =>
  encode_lt p rfl (Nat.two_pow_pos _) (of_decide_eq_true h)

theorem EncodingFits.sealBank (bank : Bank) : EncodingFits.Statement (.sealBank bank) := fun p _ =>
  encode_lt p rfl (Nat.two_pow_pos _) (Nat.two_pow_pos _)

theorem EncodingFits.rdword (bank : Bank) (addr : Nat) : EncodingFits.Statement (.rdword bank addr) := fun p h =>
  encode_lt p rfl (of_decide_eq_true h) (Nat.two_pow_pos _)

theorem EncodingFits.unpack (bank : Bank) (index : Nat) : EncodingFits.Statement (.unpack bank index) := fun p h =>
  encode_lt p rfl (of_decide_eq_true h) (Nat.two_pow_pos _)

theorem EncodingFits.get (key : Nat) : EncodingFits.Statement (.get key) := fun p h =>
  encode_lt p rfl (of_decide_eq_true h) (Nat.two_pow_pos _)

theorem EncodingFits.rst : EncodingFits.Statement .rst := fun p _ =>
  encode_lt p rfl (Nat.two_pow_pos _) (Nat.two_pow_pos _)

end Sys2Proof.Laws
end

