-- ==== Sys2Proof/Laws/Runs.lean ====
section
/-! SUPPORT. Sequences of commands and of steps taken apart at their first element, and the induction over steps, once
(20_memory.md rule R80). -/

namespace Sys2Proof.Machine

@[simp] theorem runAll_nil (s : State) : runAll [] s = .next s := rfl

theorem runAll_cons_next {i : Instr} {rest : List Instr} {s t : State} :
    runAll (i :: rest) s = .next t ↔ ∃ u, exec i s = .next u ∧ runAll rest u = .next t := by
  cases h : exec i s <;> simp [runAll, h]

@[simp] theorem runSteps_zero (s : State) : runSteps 0 s = .next s := rfl

theorem runSteps_succ_next {n : Nat} {s t : State} :
    runSteps (n + 1) s = .next t ↔ ∃ u, step s = .next u ∧ runSteps n u = .next t := by
  cases h : step s <;> simp [runSteps, h]

/-- What every step keeps, every run of steps keeps. -/
theorem runSteps_keeps {P : State → Prop} (hstep : ∀ s t, P s → step s = .next t → P t) {n : Nat} {s t : State}
    (hs : P s) (h : runSteps n s = .next t) : P t := by
  induction n generalizing s with
  | zero => cases h; exact hs
  | succ n ih =>
    obtain ⟨u, hu, ht⟩ := runSteps_succ_next.mp h
    exact ih (hstep s u hs hu) ht

end Sys2Proof.Machine
end

