-- ==== Sys2Proof/Tests/Slice0.lean ====
section
/-! SUPPORT. Tests of single commands against the vectors of 95_test_vectors.md, decoding tests from words written out
field by field, the smoke test of well-formedness, and a witness for the hypotheses of every statement. -/

namespace Sys2Proof.Tests

open Sys2Proof.Machine

/-! ### Well-formedness: an ill-formed term for each check -/

theorem test_wellFormed_accepts_largest : (Instr.csrw 4 (2 ^ 256 - 1)).WellFormed Config.reference := by decide
theorem test_wellFormed_refuses_csrw : (Instr.csrw 4 (2 ^ 256)).wellFormed Config.reference = false := by decide
theorem test_wellFormed_refuses_pkpush : (Instr.pkpush (2 ^ 256)).wellFormed Config.reference = false := by decide
theorem test_wellFormed_refuses_ldword : (Instr.ldword .key (2 ^ 256)).wellFormed Config.reference = false := by decide
theorem test_wellFormed_refuses_rdword : (Instr.rdword .val (2 ^ 32)).wellFormed Config.reference = false := by decide
theorem test_wellFormed_refuses_unpack : (Instr.unpack .key (2 ^ 32)).wellFormed Config.reference = false := by decide
theorem test_wellFormed_refuses_get : (Instr.get (2 ^ 32)).wellFormed Config.reference = false := by decide

/-! ### Decoding: command words written out as op byte, 32-bit idx, 256-bit data (30_encoding.md rules R90, R93)

Eight hex digits of `idx` follow the two of `op`; `data` is the low 256 bits. -/

/-- The word `op:idx:data` of the reference block. -/
def word (opIdx data : Nat) : Nat := opIdx * 2 ^ 256 + data

theorem test_decode_nop : decode Config.reference (word 0x0000000000 0) = .instr .nop := by decide
theorem test_decode_csrr : decode Config.reference (word 0x1C00000000 0) = .instr (.csrr 12) := by decide
theorem test_decode_csrw : decode Config.reference (word 0x2400000000 4) = .instr (.csrw 4 4) := by decide
theorem test_decode_pkbegin : decode Config.reference (word 0x3100000000 0) = .instr (.pkbegin .val) := by decide
theorem test_decode_pkpush : decode Config.reference (word 0x4000000000 0x10) = .instr (.pkpush 16) := by decide
theorem test_decode_pkend : decode Config.reference (word 0x5000000000 0) = .instr .pkend := by decide
theorem test_decode_ldword :
    decode Config.reference (word 0x6100000000 0x240801C060140400C0200400) =
      .instr (.ldword .val 0x240801C060140400C0200400) := by decide
theorem test_decode_seal : decode Config.reference (word 0x7100000000 0) = .instr (.sealBank .val) := by decide
theorem test_decode_rdword : decode Config.reference (word 0x800000009C 0) = .instr (.rdword .key 156) := by decide
theorem test_decode_unpack : decode Config.reference (word 0x9100000009 0) = .instr (.unpack .val 9) := by decide
theorem test_decode_get : decode Config.reference (word 0xA00000007B 0) = .instr (.get 123) := by decide
theorem test_decode_rst : decode Config.reference (word 0xF0DEADBEEF 0x1234) = .instr .rst := by decide
theorem test_decode_reserved : decode Config.reference (word 0x32DEADBEEF 0x1234) = .reservedOp 0x32 := by decide
theorem test_decode_ignores_idx : decode Config.reference (word 0x40FFFFFFFF 7) = .instr (.pkpush 7) := by decide

theorem test_decodeTableWord_get : decodeTableWord 8 0xA0 = some (.get 0) := by decide
theorem test_decodeTableWord_reserved : decodeTableWord 8 0xA1 = none := by decide

/-- The notation of 30_encoding.md rule R100. -/
theorem test_assembly : assemblyText (.csrw 4 4) = "CSRW W_KEY, 4" ∧ assemblyText (.csrr 13) = "CSRR 13" := by decide

/-- The widths 43_dictmap.md rule R155 (c) gives: 4 for 10 and for 16 values, 1 for one value, none for no value. -/
theorem test_indexWidth :
    indexWidth 10 = some 4 ∧ indexWidth 16 = some 4 ∧ indexWidth 1 = some 1 ∧ indexWidth 0 = none := by decide

/-! ### Small states -/

/-- `B = 8`, `IDX_BITS = 8`, two words in each bank; `EPW(4) = 2`. -/
def small : Params := ⟨8, 8, 2, 2⟩

/-- The reference block with key width 4 and value width 10, bank KEY and bank VAL as given. -/
def ref (key val : BankState) : State := { State.reset with key := key, val := val }

/-- The small block with the two banks as given. -/
def small2 (key val : BankState) : State := { State.init small with key := key, val := val }

/-- A construction on bank KEY of the small block, width 4, `cnt` elements placed in `acc`, no word written. -/
def filling (cnt acc : Nat) : State :=
  { small2 ⟨4, 0, 0, false, []⟩ BankState.reset with pkActive := true, pkCount := cnt, acc := acc, cnt := cnt }

/-- A construction on bank KEY of the small block, width 4, both words written. -/
def fullBank : State :=
  { small2 ⟨4, 0, 2, false, [(0, 0x21), (1, 0x43)]⟩ BankState.reset with pkActive := true, pkCount := 4 }

/-- The small block with a mapping in its banks: keys `[1, 0, 2]` of width 4, values `[5, 9]` of width 4. -/
def mapped : State := small2 ⟨4, 3, 2, true, [(0, 0x01), (1, 0x02)]⟩ ⟨4, 2, 1, true, [(0, 0x95)]⟩

/-- Bank KEY configured with width 4 and open, bank VAL likewise. -/
def ready : State := small2 ⟨4, 0, 0, false, []⟩ ⟨4, 0, 0, false, []⟩

theorem filling_inv_0 : (filling 0 0).Inv := State.inv_of_check (by decide)
theorem filling_inv_1 : (filling 1 0xF).Inv := State.inv_of_check (by decide)
theorem fullBank_inv : fullBank.Inv := State.inv_of_check (by decide)
theorem mapped_inv : mapped.Inv := State.inv_of_check (by decide)
theorem ready_inv : ready.Inv := State.inv_of_check (by decide)
theorem ready_for (b : Bank) : ready.ReadyFor b := ⟨ready_inv, rfl, by cases b <;> rfl⟩

/-! ### Commands (vectors of 95_test_vectors.md) -/

/-- V-S1. -/
theorem test_nop : nextOf (exec .nop State.reset) = some (State.reset.ok 0) := by decide

/-- V-S2 and V-S6: `WORDBITS` is 256; `EPW_VAL` is 24 for width 10. -/
theorem test_csrr_wordbits : nextOf (exec (.csrr 0) State.reset) = some (State.reset.ok 256) := by decide
theorem test_csrr_epw :
    (nextOf (exec (.csrr 12) (ref BankState.reset ⟨10, 0, 0, false, []⟩))).map (·.responses) = some [⟨0, 24⟩] := by
  decide

/-- V-S7: a width above `B` is `BadConfig`; V-S10: a decode error outranks an open construction. -/
theorem test_csrw_bad_width : nextOf (exec (.csrw 4 257) State.reset) = some (State.reset.failed 8) := by decide
theorem test_csrw_priority : nextOf (exec (.csrw 1 0) (filling 0 0)) = some ((filling 0 0).failed 4) := by decide

/-- V-K2: `STATUS = 0x4` after `PKBEGIN KEY`; V-K1: an unconfigured width is `BadConfig`. -/
theorem test_pkbegin :
    (nextOf (exec (.pkbegin .key) (ref ⟨4, 0, 0, false, []⟩ BankState.reset))).map statusView = some 4 := by decide
theorem test_pkbegin_unconfigured : nextOf (exec (.pkbegin .key) State.reset) = some (State.reset.failed 8) := by decide

/-- V-P17: the pair 1, 2 of width 4 in an 8-bit word is 0x21. -/
theorem test_pkpush_completes :
    (nextOf (exec (.pkpush 2) (filling 1 1))).map (fun t => (t.key.mem, t.key.nw, t.cnt, t.pkCount)) =
      some ([(0, 0x21)], 1, 0, 2) := by decide
/-- V-K13: the value check comes before the capacity check, and aborts. -/
theorem test_pkpush_abort :
    (nextOf (exec (.pkpush 16) fullBank)).map (fun t => (t.err, t.key.nw, statusView t)) = some (0x002, 0, 0) := by decide

/-- V-K4: `PKEND` after 3, 1, 4 of width 4. -/
theorem test_pkend :
    (nextOf (exec .pkend { ref ⟨4, 0, 0, false, []⟩ BankState.reset with
      pkActive := true, pkCount := 3, acc := 0x413, cnt := 3 })).map (fun t => (t.key, statusView t)) =
      some (⟨4, 3, 1, true, [(0, 0x413)]⟩, 1) := by decide

/-- V-N1, V-N12. -/
theorem test_ldword :
    (nextOf (exec (.ldword .val 0x240801C060140400C0200400) State.reset)).map (·.val.mem) =
      some [(0, 0x240801C060140400C0200400)] := by decide
theorem test_ldword_full :
    nextOf (exec (.ldword .val 6) (ref BankState.reset ⟨0, 0, 1, false, [(0, 5)]⟩)) =
      some ((ref BankState.reset ⟨0, 0, 1, false, [(0, 5)]⟩).failed 9) := by decide

/-- V-N3, V-N4: ten values of width 10 are one word, 25 are two. -/
theorem test_seal :
    (nextOf (exec (.sealBank .val) (ref BankState.reset ⟨10, 10, 1, false, [(0, 5)]⟩))).map statusView = some 2 := by
  decide
theorem test_seal_mismatch :
    (nextOf (exec (.sealBank .val) (ref BankState.reset ⟨10, 25, 1, false, [(0, 5)]⟩))).map (·.err) = some 0x400 := by
  decide

/-- V-N10. -/
theorem test_rdword :
    (nextOf (exec (.rdword .val 0) (ref BankState.reset ⟨10, 10, 1, true, [(0, 0x2408)]⟩))).map (·.responses) =
      some [⟨0, 0x2408⟩] := by decide
theorem test_rdword_beyond :
    (nextOf (exec (.rdword .val 1) (ref BankState.reset ⟨10, 10, 1, true, [(0, 0x2408)]⟩))).map (·.err) =
      some 0x800 := by decide

/-- V-U4 with the dirty padding of program P2: lane 23 of word 0 is 24. -/
theorem test_unpack :
    (nextOf (exec (.unpack .val 23) (ref BankState.reset ⟨10, 24, 1, true,
      [(0, 0xABCD060170581505013048110400F0380D0300B0280902007018050100300801)]⟩))).map (·.responses) =
      some [⟨0, 24⟩] := by decide
/-- V-N7: index 10 of ten elements, although the word holds zero padding there. -/
theorem test_unpack_length :
    (nextOf (exec (.unpack .val 10) (ref BankState.reset ⟨10, 10, 1, true,
      [(0, 0x240801C060140400C0200400)]⟩))).map (·.err) = some 0x004 := by decide

/-- V-G5: key 4 of mapping M maps to 600. -/
theorem test_get :
    (nextOf (exec (.get 4) (ref ⟨4, 5, 1, true, [(0, 0x51413)]⟩
      ⟨10, 6, 1, true, [(0, 0x961F46412C32064)]⟩))).map (·.responses) = some [⟨0, 600⟩] := by decide
/-- V-G9: the stored index 19 is not below `K = 10`. -/
theorem test_get_broken_index :
    (nextOf (exec (.get 0) (ref ⟨8, 2, 1, true, [(0, 0x413)]⟩
      ⟨10, 10, 1, true, [(0, 0x240801C060140400C0200400)]⟩))).map (·.err) = some 0x004 := by decide

/-- V-S14. -/
theorem test_rst : nextOf (exec .rst mapped) = some ((State.init small).ok 0) := by decide

/-- The byte procedure on V-P1 and V-P16 (41_packer.md rule R110). -/
theorem test_pack_reference :
    pack 256 10 [0, 1, 2, 3, 4, 5, 6, 7, 8, 9] = .ok [0x240801C060140400C0200400] := by rfl
theorem test_pack_capped : pack 32 7 [0x7F, 0x01, 0x55, 0x2A, 0x40] = .ok [0x55540FF, 0x40] := by rfl

/-- V-U10: element 4 of width 10 lies in word 1 of 64-bit words. -/
theorem test_unpackByBytes : unpackByBytes 64 10 [0x556AA007FF, 0xF0] 4 = some 0xF0 := by decide

/-- The first command of a program presented to the reset block. -/
theorem test_step_first : nextOf (step (State.reset.withFetchWord 8 0xA0)) = some (State.reset.failed 6) := by decide

/-! ### Witnesses: a concrete state and operands that meet the hypotheses of each statement, clause by clause -/

/-- The small block with a command presented. -/
def presented (bits : Nat) : State := { State.init small with port := [.command bits] }

theorem witness_DecodeOfEncodeIsTheCommand :
    (Instr.get 255).WellFormed small ∧ (Instr.pkpush 255).WellFormed small ∧ (Instr.csrw 15 0).WellFormed small := by
  decide
theorem witness_DecodedOperandsFitTheirFields : decode small 0xA0FFFF = .instr (.get 255) := by decide
theorem witness_DecoderFollowsTheOpcodeMap :
    (Bank.val = .val ∧ 1 = 1) ∧ ReservedByte 0x01 ∧ ReservedByte 0x32 ∧ ReservedByte 0xFF :=
  ⟨⟨rfl, rfl⟩, by decide, by decide, by decide⟩
theorem witness_ReservedOpBytesRaiseIllegalCommand :
    (presented 0xEF0000).params.Legal ∧ (presented 0xEF0000).port = .command 0xEF0000 :: [] ∧
      ReservedByte (0xEF0000 / 2 ^ (small.wordBits + small.idxBits) % 256) ∧ ¬ ReservedByte 0xF0 := by decide
theorem witness_UnreadFieldsAreIgnored :
    0xF0 ∈ [0x00, 0x50, 0xF0, 0x30, 0x31, 0x70, 0x71] ∧ (0x10 ≤ 0x1F ∧ 0x1F ≤ 0x1F) ∧ 0x61 ∈ [0x40, 0x60, 0x61] ∧
      0xA0 ∈ [0x80, 0x81, 0x90, 0x91, 0xA0] := by decide
theorem witness_StepRunsTheDecodedCommand :
    (presented 0x240004).params.Legal ∧ (presented 0x240004).port = .command 0x240004 :: [] ∧
      decode small 0x240004 = .instr (.csrw 4 4) := by decide
theorem witness_ExternalResetAndWaiting :
    ({ mapped with port := [.reset [0x240004]] } : State).params.Legal ∧ mapped.params.Legal ∧ mapped.port = [] := by
  decide
theorem witness_IllegalParametersAreRefused : ¬ (State.init ⟨12, 8, 2, 2⟩).params.Legal := by decide
theorem witness_ResetValues :
    (∃ t, exec .rst mapped = .next t) ∧
      ({ mapped with port := [.reset [0x240004]] } : State).port = .reset [0x240004] :: [] ∧
      ∃ t, step { mapped with port := [.reset [0x240004]] } = .next t :=
  ⟨⟨_, rfl⟩, rfl, _, rfl⟩
theorem witness_ResetMeetsTheInvariant : small.Legal ∧ Config.reference.Legal ∧ (⟨32, 16, 2, 1⟩ : Params).Legal := by decide
theorem witness_StepKeepsTheInvariant :
    State.Inv { filling 1 1 with port := [.command 0x400002] } ∧
      ∃ t, step { filling 1 1 with port := [.command 0x400002] } = .next t :=
  ⟨State.inv_of_check (by decide), _, rfl⟩
theorem witness_StepAlwaysAnswers : fullBank.Inv ∧ mapped.Inv := ⟨fullBank_inv, mapped_inv⟩
theorem witness_StepKeepsMemoryCanonical :
    mapped.MemWf ∧ ∃ t, step { mapped with port := [.command 0xA00001] } = .next t :=
  ⟨fun b => by cases b <;> decide, _, rfl⟩
theorem witness_StepKeepsTheParameters : ∃ t, step (presented 0xF00000) = .next t := ⟨_, rfl⟩
theorem witness_RegistersFitTheirWidths : fullBank.Inv := fullBank_inv
theorem witness_EveryResponseIsWellFormed : ∃ t, exec (.get 3) mapped = .next t := ⟨_, rfl⟩
theorem witness_FirstCommandsAfterReset :
    small.Legal ∧ 0 < (State.init small).cap .key ∧ 255 < 2 ^ small.wordBits ∧
      (⟨8, 8, 0, 1⟩ : Params).Legal ∧ (State.init ⟨8, 8, 0, 1⟩).cap .key = 0 := by decide
theorem witness_CsrrReadsTheRegister :
    (15 : Fin 16) ∈ [(3 : Fin 16), 13, 14, 15] ∧ mapped.key.w ≤ mapped.params.wordBits ∧
      mapped.val.w ≤ mapped.params.wordBits ∧ ((11 : Fin 16), 2) ∈ mapped.registerTable ∧
      2 < 2 ^ mapped.params.wordBits := by decide
/-- `ERR` with bit 9 set does not fit an 8-bit word. -/
theorem witness_CsrrOfAWideValueStillAnswers :
    ((2 : Fin 16), 0x200) ∈ (({ mapped with err := 0x200 } : State).registerTable) ∧
      2 ^ mapped.params.wordBits ≤ 0x200 ∧ mapped.key.w ≤ mapped.params.wordBits ∧
      mapped.val.w ≤ mapped.params.wordBits := by decide
theorem witness_CsrwWritesTheRegister :
    (filling 0 0).pkActive = true ∧ mapped.pkActive = false ∧ (mapped.bank .val).isSealed = true ∧
      ready.pkActive = false ∧ (ready.bank .key).isSealed = false ∧ ready.params.wordBits < 9 ∧
      2 ^ ready.params.idxBits ≤ 256 ∧ 8 ≤ ready.params.wordBits ∧ 255 < 2 ^ ready.params.idxBits := by decide
theorem witness_PkbeginOpensAConstruction :
    (filling 0 0).pkActive = true ∧ mapped.pkActive = false ∧ (mapped.bank .key).isSealed = true ∧
      (State.init small).pkActive = false ∧ ((State.init small).bank .key).isSealed = false ∧
      ((State.init small).bank .key).w = 0 ∧ ready.pkActive = false ∧ (ready.bank .val).isSealed = false ∧
      (ready.bank .val).w ≠ 0 := by decide
theorem witness_PkpushPlacesOneElement :
    ready.pkActive = false ∧ (filling 0 0).pkActive = true ∧ Bank.key = (filling 0 0).pkBank ∧
      4 = ((filling 0 0).bank .key).w ∧ 2 ^ 4 ≤ 16 ∧ 15 < 2 ^ 4 ∧
      ((filling 0 0).bank .key).nw ≠ (filling 0 0).cap .key ∧ (filling 0 0).cnt + 1 ≠ epw small.wordBits 4 ∧
      (filling 1 0xF).cnt + 1 = epw small.wordBits 4 ∧ (fullBank.bank .key).nw = fullBank.cap .key := by decide
theorem witness_PkendSealsTheBank :
    ready.pkActive = false ∧ fullBank.pkActive = true ∧ Bank.key = fullBank.pkBank ∧ fullBank.cnt = 0 ∧
      (filling 1 0xF).pkActive = true ∧ Bank.key = (filling 1 0xF).pkBank ∧ 0 < (filling 1 0xF).cnt := by decide
theorem witness_LdwordAppendsOneWord :
    (filling 0 0).pkActive = true ∧ (mapped.bank .key).isSealed = true ∧ mapped.pkActive = false ∧
      ready.pkActive = false ∧ (ready.bank .key).isSealed = false ∧ (ready.bank .key).nw ≠ ready.cap .key ∧
      255 < 2 ^ ready.params.wordBits ∧
      ((small2 ⟨4, 0, 2, false, [(0, 1), (1, 2)]⟩ BankState.reset).bank .key).nw = small.keyWords := by decide
theorem witness_SealChecksTheLength :
    ready.pkActive = false ∧ (ready.bank .key).isSealed = false ∧ 1 ≤ (ready.bank .key).w ∧
      (ready.bank .key).w ≤ ready.params.wordBits ∧
      (ready.bank .key).nw = ceilDiv (ready.bank .key).len (epw ready.params.wordBits (ready.bank .key).w) ∧
      0 ≠ ceilDiv (({ ready with key := ⟨4, 1, 0, false, []⟩ } : State).bank .key).len (epw 8 4) ∧
      ((State.init small).bank .val).w = 0 := by decide
theorem witness_RdwordReadsOneWord : (mapped.bank .key).nw ≤ 2 ∧ 1 < (mapped.bank .key).nw := by decide
theorem witness_UnpackReadsOneElement :
    (ready.bank .key).isSealed = false ∧ (mapped.bank .key).isSealed = true ∧ (mapped.bank .key).len ≤ 3 ∧
      2 < (mapped.bank .key).len ∧ 4 = (mapped.bank .key).w ∧ 2 = epw mapped.params.wordBits 4 := by decide
/-- `idx < K` at key 0, and `idx = K` at key 2. -/
theorem witness_GetReadsThroughBothBanks :
    ready.key.isSealed = false ∧ mapped.key.isSealed = true ∧ mapped.val.isSealed = true ∧ mapped.key.len ≤ 3 ∧
      0 < mapped.key.len ∧ 4 = mapped.key.w ∧ 2 = epw mapped.params.wordBits 4 ∧ 4 = mapped.val.w ∧
      nextOf (exec (.get 0) mapped) = some (mapped.ok 9) ∧ nextOf (exec (.get 2) mapped) = some (mapped.failed 2) := by
  decide
theorem witness_GetIsTheMappingFunction : mapped.Inv ∧ mapped.key.isSealed = true ∧ mapped.val.isSealed = true :=
  ⟨mapped_inv, rfl, rfl⟩
theorem witness_FrameOfReadingCommands :
    readsOnly (.get 0) = true ∧ ∃ t, exec (.get 0) mapped = .next t ∧ t.responses = ⟨0#8, 9⟩ :: mapped.responses :=
  ⟨rfl, _, rfl, rfl⟩
theorem witness_FrameOfPackerCommands :
    (∃ t, exec (.pkbegin .key) ready = .next t) ∧ (∃ t, exec (.pkpush 2) (filling 1 1) = .next t) ∧
      (∃ t, exec (.pkpush 16) fullBank = .next t ∧ t.pkActive ≠ fullBank.pkActive) ∧
      (∃ t, exec .pkend (filling 1 1) = .next t) ∧ (∃ t, exec .pkend ready = .next t) :=
  ⟨⟨_, rfl⟩, ⟨_, rfl⟩, ⟨_, rfl, by decide⟩, ⟨_, rfl⟩, ⟨_, rfl⟩⟩
theorem witness_FrameOfLoadSealAndSystemWrites :
    (∃ t, exec (.ldword .key 255) ready = .next t) ∧ (∃ t, exec (.sealBank .key) ready = .next t) ∧
      (∃ t, exec (.csrw 6 255) ready = .next t) ∧ (∃ t, exec .rst ready = .next t) :=
  ⟨⟨_, rfl⟩, ⟨_, rfl⟩, ⟨_, rfl⟩, ⟨_, rfl⟩⟩
theorem witness_ErrorEntryChangesOnlyErr :
    (∃ t, exec (.get 3) mapped = .next t ∧ t.responses = ⟨3#8, 0⟩ :: mapped.responses) ∧
      (∃ t, exec (.pkpush 3) mapped = .next t ∧ t.responses = ⟨7#8, 0⟩ :: mapped.responses) ∧
      (∃ t, exec (.pkpush 15) fullBank = .next t ∧ t.responses = ⟨9#8, 0⟩ :: fullBank.responses) ∧
      (∃ t, exec (.pkpush 16) fullBank = .next t ∧ t.responses = ⟨1#8, 0⟩ :: fullBank.responses) :=
  ⟨⟨_, rfl, rfl⟩, ⟨_, rfl, rfl⟩, ⟨_, rfl, rfl⟩, ⟨_, rfl, rfl⟩⟩
theorem witness_ErrIsAStickyMask :
    (∃ t, exec (.get 3) mapped = .next t) ∧ (∃ t, rejectReserved 0x32 mapped = .next t) ∧
      (∃ t, exec .rst mapped = .next t) ∧ (∃ t, step { mapped with port := [.reset []] } = .next t) ∧ 12 ≤ 12 ∧
      mapped.Inv ∧ ∃ t, step mapped = .next t :=
  ⟨⟨_, rfl⟩, ⟨_, rfl⟩, ⟨_, rfl⟩, ⟨_, rfl⟩, by decide, mapped_inv, ⟨_, rfl⟩⟩
theorem witness_SealedBankIsImmutable :
    mapped.Inv ∧ (mapped.bank .val).isSealed = true ∧ ∃ t, exec (.ldword .val 1) mapped = .next t :=
  ⟨mapped_inv, rfl, _, rfl⟩
theorem witness_LifecycleFollowsTheTable :
    (filling 1 1).Inv ∧ ∃ t, exec .pkend (filling 1 1) = .next t ∧ t.responses = ⟨0#8, 0⟩ :: (filling 1 1).responses :=
  ⟨State.inv_of_check (by decide), _, rfl, rfl⟩
/-- Neither command reads `ERR`; and `CSRR ERR` beside a read that sets no new bit. -/
theorem witness_ReadingCommandsCommute :
    (readsOnly (.get 0) = true ∧ readsOnly (.rdword .key 9) = true ∧
      ∃ s1 s2, exec (.get 0) mapped = .next s1 ∧ exec (.rdword .key 9) s1 = .next s2) ∧
    (readsOnly (.csrr 2) = true ∧
      ∃ s1 s2, exec (.csrr 2) mapped = .next s1 ∧ exec (.get 0) s1 = .next s2 ∧ s2.err = mapped.err) :=
  ⟨⟨rfl, rfl, _, _, rfl, rfl⟩, rfl, _, _, rfl, rfl, rfl⟩
/-- A run with failing reads and no read of `ERR`, reordered and with one command repeated; and a run that reads `ERR` and
sets no new bit of it. -/
theorem witness_ReadingRunsMayBeReorderedAndReplicated :
    ((∀ i ∈ [Instr.get 0, .rdword .key 9, .nop], readsOnly i = true) ∧
      (∀ i ∈ [Instr.get 0, .rdword .key 9, .nop], i ≠ .csrr 2) ∧
      (∃ t, runAll [.get 0, .rdword .key 9, .nop] mapped = .next t) ∧
      ∀ i, i ∈ [Instr.nop, .rdword .key 9, .get 0, .rdword .key 9] ↔ i ∈ [Instr.get 0, .rdword .key 9, .nop]) ∧
    ∃ t, runAll [.get 0, .csrr 2] mapped = .next t ∧ t.err = mapped.err :=
  ⟨⟨by decide, by decide, ⟨_, rfl⟩, by simp; tauto⟩, _, rfl, rfl⟩
/-- `PKBEGIN KEY`, a reserved op byte, `LDWORD VAL, 1`, then a reset that is not reached. -/
theorem witness_SealedMappingSurvivesErrors :
    State.Inv { mapped with port := [0x300000, 0x32FFFF, 0x610001].map .command ++ [.reset []] } ∧
      mapped.key.isSealed = true ∧ mapped.val.isSealed = true ∧
      ∀ w ∈ [0x300000, 0x32FFFF, 0x610001], decode mapped.params w ≠ .instr .rst :=
  ⟨State.inv_of_check (by decide), rfl, rfl, by decide⟩
theorem witness_NaturalGroupIsTheLeast :
    1 ≤ 10 ∧ (1 ≤ 4 ∧ 4 * 10 % 8 = 0) ∧ 16 % 8 = 0 ∧ 4 % 8 = 4 ∧ 10 % 4 = 2 ∧ 33 % 2 = 1 := by decide
theorem witness_ElementsPerWordBounds :
    (8 ≤ 256 ∧ 256 % 8 = 0 ∧ 1 ≤ 33 ∧ 33 ≤ 256) ∧ 256 < naturalGroup 33 * 33 ∧ 8 ∣ 256 ∧ 1 ∣ 8 := by decide
theorem witness_ByteProcedureIsTheClosedForm :
    (8 ≤ 8 ∧ 8 % 8 = 0 ∧ 1 ≤ 8 ∧ 8 ≤ 8) ∧ ∀ j, j < epw 8 8 → (fun _ => 255) j < 2 ^ 8 := by
  exact ⟨by decide, fun _ _ => (by decide : 255 < 2 ^ 8)⟩
theorem witness_UnpackByBytesIsTheClosedForm :
    (∀ x ∈ [0x21, 0xFF], x < 2 ^ 8) ∧ 3 / epw 8 4 < [0x21, 0xFF].length := by decide
theorem witness_UnpackOfPackIsTheElement :
    pack 8 4 [1, 2, 3] = .ok [0x21, 0x3] ∧ (∀ v ∈ [1, 2, 15], v < 2 ^ 4) ∧ ∃ v ∈ [1, 16], 2 ^ 4 ≤ v :=
  ⟨rfl, by decide, by decide⟩
theorem witness_PaddingIsZero :
    pack 8 4 [1, 2, 3] = .ok [0x21, 0x3] ∧ [0x21, 0x3][1]? = some 0x3 ∧ Nat.testBit 0x3 1 = true :=
  ⟨rfl, by decide, by decide⟩
theorem witness_StreamEqualsPack :
    ready.ReadyFor .key ∧ 4 = (ready.bank .key).w ∧ (∀ v ∈ [1, 2, 15], v < 2 ^ 4) ∧
      ceilDiv [1, 2, 15].length (epw ready.params.wordBits 4) ≤ ready.cap .key :=
  ⟨ready_for _, by decide, by decide, by decide⟩
theorem witness_StreamFailsWherePackFails :
    ready.ReadyFor .val ∧ 4 = (ready.bank .val).w ∧ (∀ x ∈ [1, 15], x < 2 ^ 4) ∧ 2 ^ 4 ≤ 16 ∧
      ceilDiv ([1, 15] ++ 16 :: [3]).length (epw ready.params.wordBits 4) ≤ ready.cap .val :=
  ⟨ready_for _, by decide, by decide, by decide, by decide⟩
theorem witness_StreamBeyondCapacityAborts :
    ready.ReadyFor .key ∧ 4 = (ready.bank .key).w ∧ (∀ v ∈ [1, 2, 3, 4, 5], v < 2 ^ 4) ∧
      ready.cap .key < ceilDiv [1, 2, 3, 4, 5].length (epw ready.params.wordBits 4) ∧
      4 = ready.cap .key * epw ready.params.wordBits 4 :=
  ⟨ready_for _, by decide, by decide, by decide, by decide⟩
theorem witness_PackedBankRoundTrip :
    ready.ReadyFor .key ∧ ∃ t, runAll (construction .key [1, 2, 15]) ready = .next t ∧ t.AllOkSince ready 5 :=
  ⟨ready_for _, _, rfl, rfl⟩
theorem witness_GetAgreesWithTheOracle :
    ready.ReadyFor .key ∧ ready.ReadyFor .val ∧
      (∃ t, runAll (buildCommands 4 4 [1, 0, 1] [5, 9]) ready = .next t ∧ t.AllOkSince ready 11) ∧
      ∀ k ∈ [1, 0, 1], k < [5, 9].length :=
  ⟨ready_for _, ready_for _, ⟨_, rfl, rfl⟩, by decide⟩
theorem witness_LoadedBankUnpacks :
    ready.ReadyFor .val ∧ (ready.bank .val).nw = 0 ∧ (∀ x ∈ [0x21, 0x3], x < 2 ^ ready.params.wordBits) ∧
      (∃ t, runAll (loadCommands .val 4 3 [0x21, 0x3]) ready = .next t ∧ t.AllOkSince ready 5) ∧
      pack ready.params.wordBits 4 [1, 2, 3] = .ok [0x21, 0x3] :=
  ⟨ready_for _, rfl, by decide, ⟨_, rfl, rfl⟩, rfl⟩

end Sys2Proof.Tests
end

section
/-! PROOF. The statements about the block's build parameters (00_scope.md). -/

namespace Sys2Proof.Proofs

open Sys2Proof.Machine

/-- Illegal parameters decide the step whatever the state holds and whatever is presented: the parameters are checked
before the next event is taken. -/
theorem step_of_not_legal {s : State} (h : ¬ s.params.Legal) : step s = .refused .notABlock := if_neg h

/-- Settles O9: the check of the parameters stands before everything else the step does. -/
theorem illegalParametersAreRefused : Obligations.IllegalParametersAreRefused := fun _ => step_of_not_legal

end Sys2Proof.Proofs
end

section
/-! SUPPORT. How many elements a word takes and how many words an array takes (20_memory.md rules R62 to R66, R73). -/

namespace Sys2Proof.Machine

theorem naturalGroup_pos (w : Nat) : 0 < naturalGroup w :=
  Nat.div_pos (Nat.gcd_le_right w (by decide)) (Nat.gcd_pos_of_pos_right w (by decide))

/-- A group never exceeds the word: what the cap of rule R64 is for. -/
theorem groupSize_mul_le (b w : Nat) : groupSize b w * w ≤ b := by
  unfold groupSize
  split
  · assumption
  · exact Nat.div_mul_le_self b w

theorem groupSize_pos {b w : Nat} (h1 : 1 ≤ w) (h2 : w ≤ b) : 0 < groupSize b w := by
  unfold groupSize
  split
  · exact naturalGroup_pos w
  · exact Nat.div_pos h2 h1

/-- The elements of a word fit the word. -/
theorem epw_mul_le (b w : Nat) : epw b w * w ≤ b := by
  have hbytes : groupSize b w * w ≤ 8 * groupBytes b w := by unfold groupBytes ceilDiv; omega
  have hgroups : groupsPerWord b w * groupBytes b w ≤ b / 8 := Nat.div_mul_le_self _ _
  calc epw b w * w = groupsPerWord b w * (groupSize b w * w) := by unfold epw; ring
    _ ≤ groupsPerWord b w * (8 * groupBytes b w) := Nat.mul_le_mul_left _ hbytes
    _ = 8 * (groupsPerWord b w * groupBytes b w) := by ring
    _ ≤ b := by omega

theorem epw_le {b w : Nat} (h : 1 ≤ w) : epw b w ≤ b :=
  (Nat.le_mul_of_pos_right _ h).trans (epw_mul_le b w)

/-- A word of whole bytes takes at least one group, so at least one element. -/
theorem epw_pos {b w : Nat} (h8 : b % 8 = 0) (h1 : 1 ≤ w) (h2 : w ≤ b) : 0 < epw b w := by
  have hle := groupSize_mul_le b w
  have hpos : 0 < groupSize b w * w := Nat.mul_pos (groupSize_pos h1 h2) h1
  have hbytes : 0 < groupBytes b w ∧ groupBytes b w ≤ b / 8 := by unfold groupBytes ceilDiv; omega
  exact Nat.mul_pos (groupSize_pos h1 h2) (Nat.div_pos hbytes.2 hbytes.1)

/-- An array with `c` elements in its last word, at least one and at most a full word of `e`, takes one word more than
the `q` full ones before it. -/
theorem ceilDiv_mul_add {q c e : Nat} (h1 : 0 < c) (h2 : c ≤ e) : ceilDiv (q * e + c) e = q + 1 := by
  have h : (q + 1) * e = q * e + e := Nat.succ_mul q e
  exact Nat.div_eq_of_lt_le (by omega) (by rw [Nat.succ_mul]; omega)

/-- An array of `q` full words takes `q` words. -/
theorem ceilDiv_mul {q e : Nat} (h : 0 < e) : ceilDiv (q * e) e = q :=
  Nat.div_eq_of_lt_le (by omega) (by rw [Nat.succ_mul]; omega)

/-- Every width of a `b`-bit word fits a width register (10_state.md rule R22). -/
theorem lt_two_pow_widthBits {b w : Nat} (h : w ≤ b) : w < 2 ^ widthBits b := by
  refine h.trans_lt ?_
  unfold widthBits ceilLog2
  split
  · omega
  · simpa using Nat.lt_log2_self (n := b)

end Sys2Proof.Machine
end

section
/-! SUPPORT. Everything a command that answers can do, over all twelve commands: the inversion lemmas of the commands put
together, each success with the checks it passed (20_memory.md rule R80, 60_exceptions.md rule R190). -/

namespace Sys2Proof.Machine

/-- `Completes s i u`: from `s` the command `i` completes, and `u` is the state before its response is delivered. -/
inductive Completes (s : State) : Instr → State → Prop
  | read {i : Instr} (reads : readsOnly i = true) : Completes s i s
  | write {c : Fin 16} {v : Nat} {g : CsrTarget} (target : (csrOfNumber c).bind csrTarget = some g)
      (idle : s.pkActive = false) (opened : (s.bank (targetBank g)).isSealed = false)
      (accepts : targetAccepts s.params g v = true) :
      Completes s (.csrw c v) (s.writeTarget g v)
  | begin {b : Bank} (idle : s.pkActive = false) (opened : (s.bank b).isSealed = false)
      (configured : (s.bank b).w ≠ 0) : Completes s (.pkbegin b) (s.openPacker b)
  | place {v : Nat} (active : s.pkActive = true) (fits : v < 2 ^ (s.bank s.pkBank).w)
      (room : (s.bank s.pkBank).nw ≠ s.cap s.pkBank)
      (more : s.cnt + 1 ≠ epw s.params.wordBits (s.bank s.pkBank).w) :
      Completes s (.pkpush v) (s.placeElement (s.bank s.pkBank).w v)
  | fill {v : Nat} {u : State} (active : s.pkActive = true) (fits : v < 2 ^ (s.bank s.pkBank).w)
      (full : s.cnt + 1 = epw s.params.wordBits (s.bank s.pkBank).w)
      (flush : (s.placeElement (s.bank s.pkBank).w v).flushWord = .ok u) : Completes s (.pkpush v) u
  | finish (active : s.pkActive = true) (staged : s.cnt = 0) : Completes s .pkend s.sealConstruction
  | flushFinish {u : State} (active : s.pkActive = true) (staged : 0 < s.cnt) (flush : s.flushWord = .ok u) :
      Completes s .pkend u.sealConstruction
  | load {b : Bank} {v : Nat} (idle : s.pkActive = false) (opened : (s.bank b).isSealed = false)
      (room : (s.bank b).nw < s.cap b) (fits : v < 2 ^ s.params.wordBits) :
      Completes s (.ldword b v) (s.setBank b ((s.bank b).appended v))
  | close {b : Bank} (idle : s.pkActive = false) (opened : (s.bank b).isSealed = false)
      (configured : 1 ≤ (s.bank b).w)
      (length : (s.bank b).nw = arrayWords s.params.wordBits (s.bank b).w (s.bank b).len) :
      Completes s (.sealBank b) (s.setBank b { s.bank b with isSealed := true })
  | reset : Completes s .rst s.clearAll

/-- `Answers s i t`: from `s` the command `i` answers and leaves `t`. An error changes nothing but `ERR`, except that a
`PKPUSH` may abort the construction; no other error can meet a command that advances an open construction. -/
inductive Answers (s : State) : Instr → State → Prop
  | ok {i : Instr} {u : State} (d : Nat) (done : Completes s i u) : Answers s i (u.ok d)
  | refused {i : Instr} {n : Nat} (code : 1 ≤ n ∧ n ≤ 11) (not_rst : i ≠ .rst)
      (idle : (∃ v, i = .pkpush v) ∨ i = .pkend → s.pkActive = false) : Answers s i (s.failed n)
  | aborted {v n : Nat} (code : 1 ≤ n ∧ n ≤ 11) (active : s.pkActive = true) :
      Answers s (.pkpush v) (s.abortConstruction.failed n)

/-- A command other than `PKPUSH`, `PKEND` and `RST` may be refused in any state. -/
theorem Answers.refused_anytime {s : State} {i : Instr} {n : Nat} (code : 1 ≤ n ∧ n ≤ 11) (not_rst : i ≠ .rst)
    (hi : ¬ ((∃ v, i = .pkpush v) ∨ i = .pkend)) : Answers s i (s.failed n) :=
  .refused code not_rst fun h => absurd h hi

theorem execCsrw_answers {c : Fin 16} {v : Nat} {s t : State} (h : execCsrw c v s = .next t) :
    Answers s (.csrw c v) t := by
  obtain ⟨-, rfl⟩ | ⟨g, target, ⟨-, rfl⟩ | ⟨-, -, rfl⟩ | ⟨-, -, -, rfl⟩ | ⟨idle, opened, accepts, rfl⟩⟩ :=
    execCsrw_next h
  any_goals exact .refused_anytime (by decide) nofun (by simp)
  exact .ok 0 (.write target idle opened accepts)

theorem execPkbegin_answers {b : Bank} {s t : State} (h : execPkbegin b s = .next t) : Answers s (.pkbegin b) t := by
  obtain ⟨-, rfl⟩ | ⟨-, -, rfl⟩ | ⟨-, -, -, rfl⟩ | ⟨idle, opened, configured, rfl⟩ := execPkbegin_next h
  any_goals exact .refused_anytime (by decide) nofun (by simp)
  exact .ok 0 (.begin idle opened configured)

theorem execPkpush_answers {v : Nat} {s t : State} (h : execPkpush v s = .next t) : Answers s (.pkpush v) t := by
  obtain ⟨idle, rfl⟩ | ⟨active, w, hw, hcases⟩ := execPkpush_next h
  · exact .refused (by decide) nofun fun _ => idle
  · obtain ⟨rfl, -, -⟩ := State.width?_eq_some.mp hw
    obtain ⟨-, rfl⟩ | ⟨-, -, rfl⟩ | ⟨fits, -, full, u, flush, rfl⟩ | ⟨fits, room, part, rfl⟩ := hcases
    · exact .aborted (by decide) active
    · exact .aborted (by decide) active
    · exact .ok 0 (.fill active fits full flush)
    · exact .ok 0 (.place active fits room part)

theorem execPkend_answers {s t : State} (h : execPkend s = .next t) : Answers s .pkend t := by
  obtain ⟨idle, rfl⟩ | ⟨active, staged, rfl⟩ | ⟨active, staged, u, flush, rfl⟩ := execPkend_next h
  · exact .refused (by decide) nofun fun _ => idle
  · exact .ok 0 (.finish active staged)
  · exact .ok 0 (.flushFinish active staged flush)

theorem execLdword_answers {b : Bank} {v : Nat} {s t : State} (h : execLdword b v s = .next t) :
    Answers s (.ldword b v) t := by
  obtain ⟨-, rfl⟩ | ⟨-, -, rfl⟩ | ⟨-, -, -, rfl⟩ | ⟨idle, opened, room, fits, rfl⟩ := execLdword_next h
  any_goals exact .refused_anytime (by decide) nofun (by simp)
  exact .ok 0 (.load idle opened room fits)

theorem execSealBank_answers {b : Bank} {s t : State} (h : execSealBank b s = .next t) :
    Answers s (.sealBank b) t := by
  obtain ⟨-, rfl⟩ | ⟨-, -, rfl⟩ | ⟨-, -, -, rfl⟩ | ⟨idle, opened, configured, -, ⟨-, rfl⟩ | ⟨length, rfl⟩⟩ :=
    execSealBank_next h
  any_goals exact .refused_anytime (by decide) nofun (by simp)
  exact .ok 0 (.close idle opened configured length)

/-- A reading command answers or is refused, and changes neither bank nor the packer (20_memory.md rule R81). -/
theorem exec_reads {i : Instr} {s t : State} (hr : readsOnly i = true) (h : exec i s = .next t) :
    (∃ d, t = s.ok d) ∨ ∃ n, (1 ≤ n ∧ n ≤ 11) ∧ t = s.failed n := by
  cases i with
  | nop => exact .inl ⟨0, execNop_next h⟩
  | csrr c =>
    obtain ⟨-, ht⟩ | ⟨_, _, -, -, ht⟩ := execCsrr_next h
    · exact .inr ⟨_, by decide, ht⟩
    · exact .inl ⟨_, ht⟩
  | rdword b a =>
    obtain ⟨-, ht⟩ | ⟨-, _, -, ht⟩ := execRdword_next h
    · exact .inr ⟨_, by decide, ht⟩
    · exact .inl ⟨_, ht⟩
  | unpack b j =>
    obtain ⟨-, ht⟩ | ⟨-, -, ht⟩ | ⟨-, -, _, -, ht⟩ := execUnpack_next h
    · exact .inr ⟨_, by decide, ht⟩
    · exact .inr ⟨_, by decide, ht⟩
    · exact .inl ⟨_, ht⟩
  | get k =>
    obtain ⟨-, ht⟩ | ⟨-, -, ⟨-, ht⟩ | ⟨-, _, -, ⟨-, ht⟩ | ⟨-, _, -, ht⟩⟩⟩ := execGet_next h
    · exact .inr ⟨_, by decide, ht⟩
    · exact .inr ⟨_, by decide, ht⟩
    · exact .inr ⟨_, by decide, ht⟩
    · exact .inl ⟨_, ht⟩
  | csrw | pkbegin | pkpush | pkend | ldword | sealBank | rst => cases hr

/-- Whatever the command, what it does is one of the forms of `Answers`. -/
theorem exec_answers {i : Instr} {s t : State} (h : exec i s = .next t) : Answers s i t := by
  cases hr : readsOnly i with
  | true =>
    obtain ⟨d, rfl⟩ | ⟨n, code, rfl⟩ := exec_reads hr h
    · exact .ok d (.read hr)
    · refine .refused_anytime code ?_ ?_
      · rintro rfl; cases hr
      · rintro (⟨v, rfl⟩ | rfl) <;> cases hr
  | false =>
    cases i with
    | csrw c v => exact execCsrw_answers h
    | pkbegin b => exact execPkbegin_answers h
    | pkpush v => exact execPkpush_answers h
    | pkend => exact execPkend_answers h
    | ldword b v => exact execLdword_answers h
    | sealBank b => exact execSealBank_answers h
    | rst => exact execRst_next h ▸ .ok 0 .reset
    | nop | csrr | rdword | unpack | get => cases hr

/-- A step with an application of reset presented resets the block (70_reset_and_hazards.md rule R210). -/
theorem step_reset_next {s t : State} {lost : List Nat} {rest : List HostEvent} (hp : s.port = .reset lost :: rest)
    (h : step s = .next t) : t = ({ s with port := rest } : State).clearAll := by
  obtain ⟨-, ⟨hq, -⟩ | ⟨_, _, hq, ht⟩ | ⟨_, _, _, hq, -, -⟩ | ⟨_, _, _, hq, -, -⟩⟩ := step_next h
  · simp [hp] at hq
  · obtain ⟨-, rfl⟩ := List.cons.inj (hp.symm.trans hq)
    exact ht
  · simp [hp] at hq
  · simp [hp] at hq

end Sys2Proof.Machine
end

section
/-! SUPPORT. What the invariant of 10_state.md rule R41 says of one bank and of an open construction, and each shared
operation keeps it. -/

namespace Sys2Proof.Machine

/-! ### One bank -/

theorem BankState.inv_reset (p : Params) (cap : Nat) : BankState.reset.Inv p cap where
  width_le := Nat.zero_le _
  len_lt := Nat.two_pow_pos _
  nw_le := Nat.zero_le _
  addresses := rfl
  words := by simp
  closed := nofun

/-- An open bank may be emptied (20_memory.md rule R77). -/
theorem BankState.Inv.emptied {p : Params} {cap : Nat} {x : BankState} (h : x.Inv p cap)
    (opened : x.isSealed = false) : ({ x with nw := 0, mem := [] } : BankState).Inv p cap where
  width_le := h.width_le
  len_lt := h.len_lt
  nw_le := Nat.zero_le _
  addresses := rfl
  words := by simp
  closed := fun hs => absurd hs (by simp [opened])

@[simp] theorem BankState.w_appended (x : BankState) (v : Nat) : (x.appended v).w = x.w := rfl
@[simp] theorem BankState.len_appended (x : BankState) (v : Nat) : (x.appended v).len = x.len := rfl
@[simp] theorem BankState.nw_appended (x : BankState) (v : Nat) : (x.appended v).nw = x.nw + 1 := rfl
@[simp] theorem BankState.isSealed_appended (x : BankState) (v : Nat) : (x.appended v).isSealed = x.isSealed := rfl

/-- An open bank with room takes one more word (20_memory.md rule R77). -/
theorem BankState.Inv.appended {p : Params} {cap : Nat} {x : BankState} (h : x.Inv p cap)
    (opened : x.isSealed = false) (room : x.nw < cap) {v : Nat} (fits : v < 2 ^ p.wordBits) :
    (x.appended v).Inv p cap where
  width_le := h.width_le
  len_lt := h.len_lt
  nw_le := room
  addresses := Memory.addresses_write h.addresses v
  words := fun c hc => by
    rcases Memory.mem_write hc with rfl | hc
    · exact fits
    · exact h.words c hc
  closed := fun hs => absurd hs (by simp [opened])

/-- A bank whose word count is that of its length may be sealed (10_state.md rule R41 (a), (d)). -/
theorem BankState.Inv.closed_with {p : Params} {cap : Nat} {x : BankState} (h : x.Inv p cap) {n : Nat}
    (len_lt : n < 2 ^ p.idxBits) (configured : 1 ≤ x.w) (length : x.nw = ceilDiv n (epw p.wordBits x.w)) :
    ({ x with len := n, isSealed := true } : BankState).Inv p cap where
  width_le := h.width_le
  len_lt := len_lt
  nw_le := h.nw_le
  addresses := h.addresses
  words := h.words
  closed := fun _ => ⟨configured, length⟩

/-- The bank after `csr[c] <- v` (44_system.md rule R167). -/
def BankState.written (x : BankState) (v : Nat) : CsrTarget → BankState
  | .width _ => { x with w := v }
  | .length _ => { x with len := v }

theorem State.writeTarget_eq (s : State) (g : CsrTarget) (v : Nat) :
    s.writeTarget g v = s.setBank (targetBank g) ((s.bank (targetBank g)).written v g) := by
  cases g <;> rfl

@[simp] theorem BankState.isSealed_written (x : BankState) (v : Nat) (g : CsrTarget) :
    (x.written v g).isSealed = x.isSealed := by
  cases g <;> rfl

/-- An open bank takes every width and length the checks of `CSRW` accept. -/
theorem BankState.Inv.written {p : Params} {cap : Nat} {x : BankState} (h : x.Inv p cap)
    (opened : x.isSealed = false) {g : CsrTarget} {v : Nat} (accepts : targetAccepts p g v = true) :
    (x.written v g).Inv p cap := by
  have not_closed : ¬ (x.written v g).isSealed = true := by simp [opened]
  cases g with
  | width b =>
    obtain ⟨-, hv⟩ : 1 ≤ v ∧ v ≤ p.wordBits := of_decide_eq_true accepts
    exact ⟨hv, h.len_lt, h.nw_le, h.addresses, h.words, fun hs => absurd hs not_closed⟩
  | length b =>
    exact ⟨h.width_le, of_decide_eq_true accepts, h.nw_le, h.addresses, h.words, fun hs => absurd hs not_closed⟩

/-! ### Counts and lengths -/

theorem capOf_mul_wordBits_lt {p : Params} (h : p.Legal) (b : Bank) :
    capOf p b * p.wordBits < 2 ^ p.idxBits := by
  obtain ⟨-, -, -, hkey, hval⟩ := h
  cases b
  · exact hkey
  · exact hval

/-- Every number of elements that fits the words of a bank fits the length field (10_state.md rule R33). -/
theorem elements_lt_of_legal {p : Params} (h : p.Legal) {b : Bank} {w n : Nat} (hw : 1 ≤ w)
    (hn : n ≤ capOf p b * epw p.wordBits w) : n < 2 ^ p.idxBits :=
  calc n ≤ capOf p b * epw p.wordBits w := hn
    _ ≤ capOf p b * p.wordBits := Nat.mul_le_mul_left _ (epw_le hw)
    _ < 2 ^ p.idxBits := capOf_mul_wordBits_lt h b

theorem State.Inv.bank {s : State} (h : s.Inv) (b : Bank) : (s.bank b).Inv s.params (s.cap b) := by
  cases b
  · exact h.key
  · exact h.val

/-- The word count of a bank fits the index width (10_state.md rule R33). -/
theorem State.Inv.nw_lt {s : State} (h : s.Inv) (b : Bank) : (s.bank b).nw < 2 ^ s.params.idxBits := by
  have hbits : 0 < s.params.wordBits := Nat.lt_of_lt_of_le (by decide) h.legal.1
  calc (s.bank b).nw ≤ s.cap b := (h.bank b).nw_le
    _ ≤ s.cap b * s.params.wordBits := Nat.le_mul_of_pos_right _ hbits
    _ < 2 ^ s.params.idxBits := capOf_mul_wordBits_lt h.legal b

/-- The elements pushed fit the words of the bank: a staged element has a word to go to. -/
theorem State.Inv.pkCount_le {s : State} (h : s.Inv) (active : s.pkActive = true) :
    s.pkCount ≤ s.cap s.pkBank * epw s.params.wordBits (s.bank s.pkBank).w := by
  obtain ⟨-, -, -, cnt_lt, -, count, room⟩ := h.filling active
  rw [count]
  rcases Nat.eq_zero_or_pos s.cnt with hc | hc
  · rw [hc]
    exact Nat.mul_le_mul_right _ (h.bank s.pkBank).nw_le
  · have hfull := Nat.mul_le_mul_right (epw s.params.wordBits (s.bank s.pkBank).w) (room hc)
    rw [Nat.succ_mul] at hfull
    omega

theorem State.Inv.pkCount_lt {s : State} (h : s.Inv) (active : s.pkActive = true) :
    s.pkCount < 2 ^ s.params.idxBits :=
  elements_lt_of_legal h.legal (h.filling active).width_pos (h.pkCount_le active)

/-- The staging word is a word: the elements it holds are fewer than fit one. -/
theorem State.Inv.acc_lt {s : State} (h : s.Inv) (active : s.pkActive = true) : s.acc < 2 ^ s.params.wordBits := by
  have hf := h.filling active
  refine hf.acc_lt.trans_le (Nat.pow_le_pow_right (by decide) ?_)
  calc s.cnt * (s.bank s.pkBank).w ≤ epw s.params.wordBits (s.bank s.pkBank).w * (s.bank s.pkBank).w :=
        Nat.mul_le_mul_right _ hf.cnt_lt.le
    _ ≤ s.params.wordBits := epw_mul_le _ _

/-! ### The invariant after each shared operation -/

/-- The invariant is about the block's own state: what belongs to the host is free, and of `ERR` bit 0 is clear. -/
theorem State.Inv.with_err_and_host {s : State} (h : s.Inv) {e : BitVec 12} (he : e.getLsbD 0 = false)
    (port : List HostEvent) (responses : List Response) :
    ({ s with err := e, port := port, responses := responses } : State).Inv where
  legal := h.legal
  key := h.key
  val := h.val
  idle := fun ha => ⟨(h.idle ha).bank, (h.idle ha).acc, (h.idle ha).cnt, (h.idle ha).count⟩
  filling := fun ha =>
    let hf := h.filling ha
    ⟨hf.opened, hf.width_pos, hf.width_le, hf.cnt_lt, hf.acc_lt, hf.count, hf.room⟩
  err := he

theorem State.Inv.with_port {s : State} (h : s.Inv) (port : List HostEvent) :
    ({ s with port := port } : State).Inv :=
  h.with_err_and_host h.err port s.responses

theorem State.Inv.ok {s : State} (h : s.Inv) (d : Nat) : (s.ok d).Inv :=
  h.with_err_and_host h.err s.port _

/-- Bit `n` of `ERR` after an error with code `m` (10_state.md rule R26). -/
theorem State.getLsbD_err_failed (s : State) (m : Nat) {n : Nat} (hn : n < 12) :
    (s.failed m).err.getLsbD n = (s.err.getLsbD n || decide (n = m)) := by
  have hbit : (1#12 <<< m).getLsbD n = decide (n = m) := by
    rw [← BitVec.twoPow_eq, BitVec.getLsbD_twoPow, ← Bool.decide_and]
    exact decide_eq_decide.mpr (by omega)
  rw [State.err_failed, BitVec.getLsbD_or, hbit]

theorem State.Inv.failed {s : State} (h : s.Inv) {n : Nat} (code : 1 ≤ n) : (s.failed n).Inv := by
  refine h.with_err_and_host ?_ s.port _
  have hbit := s.getLsbD_err_failed n (by decide : 0 < 12)
  rw [h.err, decide_eq_false (by omega : 0 ≠ n)] at hbit
  exact hbit

theorem State.inv_clearAll {s : State} (legal : s.params.Legal) : s.clearAll.Inv where
  legal := legal
  key := BankState.inv_reset _ _
  val := BankState.inv_reset _ _
  idle := fun _ => ⟨rfl, rfl, rfl, rfl⟩
  filling := nofun
  err := by simp

/-- Each bank meets its part after one of them is replaced by a bank that does. -/
theorem State.banks_inv_setBank {s : State} {p : Params} (h : ∀ c, (s.bank c).Inv p (capOf p c)) {b : Bank}
    {x : BankState} (hx : x.Inv p (capOf p b)) (c : Bank) : ((s.setBank b x).bank c).Inv p (capOf p c) := by
  by_cases hc : c = b
  · subst hc
    rwa [State.bank_setBank_same]
  · rw [State.bank_setBank_other s x hc]
    exact h c

/-- The invariant of a state that has the parameters and the `ERR` of one that meets it, from its banks and packer. -/
theorem State.Inv.of_banks {s t : State} (h : s.Inv) (params : t.params = s.params) (err : t.err = s.err)
    (banks : ∀ c, (t.bank c).Inv s.params (s.cap c)) (idle : t.pkActive = false → t.PackerClear)
    (filling : t.pkActive = true → t.PackerFilling) : t.Inv where
  legal := params ▸ h.legal
  key := params ▸ banks .key
  val := params ▸ banks .val
  idle := idle
  filling := filling
  err := err ▸ h.err

/-- While no construction is open a bank may be changed. -/
theorem State.Inv.setBank {s : State} (h : s.Inv) (idle : s.pkActive = false) {b : Bank} {x : BankState}
    (hx : x.Inv s.params (s.cap b)) : (s.setBank b x).Inv := by
  obtain ⟨hbank, hacc, hcnt, hcount⟩ := h.idle idle
  exact h.of_banks (by simp) (by simp) (State.banks_inv_setBank h.bank hx)
    (fun _ => ⟨by simpa, by simpa, by simpa, by simpa⟩) (by simp [idle])

/-- Where a construction ends, the packer is clear whatever it held. -/
theorem State.Inv.clearPacker_of_banks {s u : State} (h : s.Inv) (params : u.params = s.params) (err : u.err = s.err)
    (banks : ∀ c, (u.bank c).Inv s.params (s.cap c)) : u.clearPacker.Inv :=
  h.of_banks params err (by simpa using banks) (fun _ => ⟨rfl, rfl, rfl, rfl⟩) nofun

/-! ### The invariant along a construction -/

theorem State.Inv.abortConstruction {s : State} (h : s.Inv) (active : s.pkActive = true) :
    s.abortConstruction.Inv :=
  h.clearPacker_of_banks (by simp) (by simp)
    (State.banks_inv_setBank h.bank ((h.bank s.pkBank).emptied (h.filling active).opened))

theorem State.bank_openPacker (s : State) (b c : Bank) : (s.openPacker b).bank c = (s.discardWords b).bank c := by
  cases c <;> rfl

theorem State.Inv.openPacker {s : State} (h : s.Inv) {b : Bank} (opened : (s.bank b).isSealed = false)
    (configured : (s.bank b).w ≠ 0) : (s.openPacker b).Inv := by
  have width_pos : 1 ≤ (s.bank b).w := Nat.one_le_iff_ne_zero.mpr configured
  have width_le := (h.bank b).width_le
  have banks : ∀ c, ((s.openPacker b).bank c).Inv s.params (s.cap c) := fun c => by
    rw [State.bank_openPacker]
    exact State.banks_inv_setBank h.bank ((h.bank b).emptied opened) c
  refine h.of_banks (by simp) (by simp) banks (by simp) fun _ => ?_
  constructor <;> simp [opened, width_pos, width_le, epw_pos h.legal.2.1 width_pos width_le]

/-- An element placed above the ones staged. -/
theorem acc_placeElement_lt {acc cnt w v : Nat} (hacc : acc < 2 ^ (cnt * w)) (hv : v < 2 ^ w) :
    acc ||| v <<< (cnt * w) < 2 ^ ((cnt + 1) * w) := by
  rw [Nat.succ_mul]
  refine Nat.or_lt_two_pow (hacc.trans_le (Nat.pow_le_pow_right (by decide) (Nat.le_add_right _ _))) ?_
  rw [Nat.add_comm]
  exact Nat.shiftLeft_lt hv

theorem State.Inv.placeElement {s : State} (h : s.Inv) (active : s.pkActive = true) {v : Nat}
    (fits : v < 2 ^ (s.bank s.pkBank).w) (room : (s.bank s.pkBank).nw ≠ s.cap s.pkBank)
    (more : s.cnt + 1 ≠ epw s.params.wordBits (s.bank s.pkBank).w) :
    (s.placeElement (s.bank s.pkBank).w v).Inv := by
  have hf := h.filling active
  have hroom : (s.bank s.pkBank).nw < (s.placeElement (s.bank s.pkBank).w v).cap s.pkBank :=
    Nat.lt_of_le_of_ne (h.bank s.pkBank).nw_le room
  refine h.of_banks rfl rfl (by simpa using h.bank) (by simp [active]) fun _ => ?_
  exact {
    opened := by simpa using hf.opened
    width_pos := by simpa using hf.width_pos
    width_le := by simpa using hf.width_le
    cnt_lt := by simpa using Nat.lt_of_le_of_ne hf.cnt_lt more
    acc_lt := by simpa using acc_placeElement_lt hf.acc_lt fits
    count := by simp [hf.count, Nat.add_assoc]
    room := fun _ => by simpa using hroom }

/-- The state after `flushWord` (41_packer.md rules R112, R113). -/
def State.flushed (s : State) : State :=
  { s.setBank s.pkBank ((s.bank s.pkBank).appended s.acc) with acc := 0, cnt := 0 }

theorem State.flushWord_ok {s t : State} (h : s.flushWord = .ok t) :
    (s.bank s.pkBank).nw < s.cap s.pkBank ∧ s.acc < 2 ^ s.params.wordBits ∧ t = s.flushed :=
  State.flushWord_ok_iff.mp h

@[simp] theorem State.params_flushed (s : State) : s.flushed.params = s.params := by simp [State.flushed]
@[simp] theorem State.err_flushed (s : State) : s.flushed.err = s.err := by simp [State.flushed]
@[simp] theorem State.pkActive_flushed (s : State) : s.flushed.pkActive = s.pkActive := by simp [State.flushed]
@[simp] theorem State.pkBank_flushed (s : State) : s.flushed.pkBank = s.pkBank := by simp [State.flushed]
@[simp] theorem State.pkCount_flushed (s : State) : s.flushed.pkCount = s.pkCount := by simp [State.flushed]
@[simp] theorem State.acc_flushed (s : State) : s.flushed.acc = 0 := rfl
@[simp] theorem State.cnt_flushed (s : State) : s.flushed.cnt = 0 := rfl
@[simp] theorem State.responses_flushed (s : State) : s.flushed.responses = s.responses := by simp [State.flushed]

theorem State.bank_flushed (s : State) (c : Bank) :
    s.flushed.bank c = (s.setBank s.pkBank ((s.bank s.pkBank).appended s.acc)).bank c := by
  cases c <;> rfl

@[simp] theorem State.bank_flushed_same (s : State) :
    s.flushed.bank s.pkBank = (s.bank s.pkBank).appended s.acc := by
  simp [State.bank_flushed]

theorem State.bank_flushed_other (s : State) {c : Bank} (h : c ≠ s.pkBank) : s.flushed.bank c = s.bank c := by
  rw [State.bank_flushed, State.bank_setBank_other s _ h]

/-- Writing the staging word keeps what the invariant says of each bank. -/
theorem State.banks_inv_flushed {s : State} (h : ∀ c, (s.bank c).Inv s.params (s.cap c))
    (opened : (s.bank s.pkBank).isSealed = false) (room : (s.bank s.pkBank).nw < s.cap s.pkBank)
    (fits : s.acc < 2 ^ s.params.wordBits) (c : Bank) : (s.flushed.bank c).Inv s.params (s.cap c) := by
  rw [State.bank_flushed]
  exact State.banks_inv_setBank h ((h s.pkBank).appended opened room fits) c

/-- The element that completes a word writes it (41_packer.md rule R112). -/
theorem State.Inv.fillWord {s u : State} (h : s.Inv) (active : s.pkActive = true) {v : Nat}
    (full : s.cnt + 1 = epw s.params.wordBits (s.bank s.pkBank).w)
    (flush : (s.placeElement (s.bank s.pkBank).w v).flushWord = .ok u) : u.Inv := by
  have hf := h.filling active
  obtain ⟨room, fits, rfl⟩ := State.flushWord_ok flush
  have banks := State.banks_inv_flushed (s := s.placeElement (s.bank s.pkBank).w v)
    (by simpa [State.cap] using h.bank) (by simpa using hf.opened) room fits
  refine h.of_banks (by simp) (by simp) banks (by simp [active]) fun _ => ?_
  have hbank := State.bank_flushed_same (s.placeElement (s.bank s.pkBank).w v)
  rw [State.bank_placeElement, State.pkBank_placeElement] at hbank
  exact {
    opened := by simpa [hbank] using hf.opened
    width_pos := by simpa [hbank] using hf.width_pos
    width_le := by simpa [hbank] using hf.width_le
    cnt_lt := by simpa [hbank] using epw_pos h.legal.2.1 hf.width_pos hf.width_le
    acc_lt := by simp
    count := by simp [hbank, hf.count, Nat.succ_mul, Nat.add_assoc, full]
    room := by simp }

/-- `PKEND` seals a bank that holds the words of the elements pushed (41_packer.md rule R113): `u` is the state with
the last word written, if there was one to write. -/
theorem State.Inv.sealConstruction_of_banks {s u : State} (h : s.Inv) (active : s.pkActive = true)
    (params : u.params = s.params) (err : u.err = s.err) (count : u.pkCount = s.pkCount)
    (bank : u.pkBank = s.pkBank) (width : (u.bank s.pkBank).w = (s.bank s.pkBank).w)
    (banks : ∀ c, (u.bank c).Inv s.params (s.cap c))
    (length : (u.bank s.pkBank).nw = ceilDiv s.pkCount (epw s.params.wordBits (s.bank s.pkBank).w)) :
    u.sealConstruction.Inv := by
  have closed := (banks s.pkBank).closed_with (h.pkCount_lt active) (width ▸ (h.filling active).width_pos)
    (width ▸ length)
  refine h.clearPacker_of_banks (by simpa using params) (by simpa using err) ?_
  rw [bank, count]
  exact State.banks_inv_setBank banks closed

/-- The words written hold every element pushed when none is staged. -/
theorem State.Inv.sealConstruction {s : State} (h : s.Inv) (active : s.pkActive = true) (staged : s.cnt = 0) :
    s.sealConstruction.Inv := by
  have hf := h.filling active
  refine h.sealConstruction_of_banks active rfl rfl rfl rfl rfl h.bank ?_
  rw [hf.count, staged, Nat.add_zero, ceilDiv_mul (epw_pos h.legal.2.1 hf.width_pos hf.width_le)]

/-- The last word, not full, is one more. -/
theorem State.Inv.flush_sealConstruction {s u : State} (h : s.Inv) (active : s.pkActive = true) (staged : 0 < s.cnt)
    (flush : s.flushWord = .ok u) : u.sealConstruction.Inv := by
  have hf := h.filling active
  obtain ⟨room, fits, rfl⟩ := State.flushWord_ok flush
  refine h.sealConstruction_of_banks active (by simp) (by simp) (by simp) (by simp)
    (by simp) (State.banks_inv_flushed h.bank hf.opened room fits) ?_
  rw [State.bank_flushed_same, BankState.nw_appended, hf.count, ceilDiv_mul_add staged hf.cnt_lt.le]

/-! ### The invariant after a command -/

theorem Completes.keeps_inv {s u : State} {i : Instr} (hu : Completes s i u) (h : s.Inv) : u.Inv := by
  cases hu with
  | read => exact h
  | write _ idle opened accepts =>
    rw [State.writeTarget_eq]
    exact h.setBank idle ((h.bank _).written opened accepts)
  | begin _ opened configured => exact h.openPacker opened configured
  | place active fits room more => exact h.placeElement active fits room more
  | fill active _ full flush => exact h.fillWord active full flush
  | finish active staged => exact h.sealConstruction active staged
  | flushFinish active staged flush => exact h.flush_sealConstruction active staged flush
  | load idle opened room fits => exact h.setBank idle ((h.bank _).appended opened room fits)
  | close idle _ configured length =>
    exact h.setBank idle ((h.bank _).closed_with (h.bank _).len_lt configured length)
  | reset => exact State.inv_clearAll h.legal

theorem Answers.keeps_inv {s t : State} {i : Instr} (ht : Answers s i t) (h : s.Inv) : t.Inv := by
  cases ht with
  | ok d done => exact (done.keeps_inv h).ok d
  | refused code => exact h.failed code.1
  | aborted code active => exact (h.abortConstruction active).failed code.1

theorem exec_keeps_inv {i : Instr} {s t : State} (h : s.Inv) (ht : exec i s = .next t) : t.Inv :=
  (exec_answers ht).keeps_inv h

theorem step_keeps_inv {s t : State} (h : s.Inv) (ht : step s = .next t) : t.Inv := by
  obtain ⟨-, ⟨-, rfl⟩ | ⟨_, _, -, rfl⟩ | ⟨_, _, _, -, -, hexec⟩ | ⟨_, _, _, -, -, rfl⟩⟩ := step_next ht
  · exact h
  · exact State.inv_clearAll h.legal
  · exact exec_keeps_inv (h.with_port _) hexec
  · exact (h.with_port _).failed (by decide)

end Sys2Proof.Machine
end

section
/-! SUPPORT. What a command leaves of the parameters, of `ERR`, of a sealed bank and of a bank's lifecycle
(10_state.md rules R26, R37, R40, R42). -/

namespace Sys2Proof.Machine

/-! ### Parameters and `ERR` -/

theorem Completes.params_eq {s u : State} {i : Instr} (hu : Completes s i u) : u.params = s.params := by
  cases hu with
  | fill _ _ _ flush | flushFinish _ _ flush =>
    obtain ⟨-, -, rfl⟩ := State.flushWord_ok flush
    simp
  | read | write | begin | place | finish | load | close | reset => simp

theorem Answers.params_eq {s t : State} {i : Instr} (ht : Answers s i t) : t.params = s.params := by
  cases ht with
  | ok d done => simpa using done.params_eq
  | refused => rfl
  | aborted => simp

/-- No command delivers a response before it completes, and none but `RST` clears `ERR`. -/
theorem Completes.responses_eq {s u : State} {i : Instr} (hu : Completes s i u) : u.responses = s.responses := by
  cases hu with
  | fill _ _ _ flush | flushFinish _ _ flush =>
    obtain ⟨-, -, rfl⟩ := State.flushWord_ok flush
    simp
  | read | write | begin | place | finish | load | close | reset => simp

theorem Completes.err_eq {s u : State} {i : Instr} (hu : Completes s i u) (hi : i ≠ .rst) : u.err = s.err := by
  cases hu with
  | fill _ _ _ flush | flushFinish _ _ flush =>
    obtain ⟨-, -, rfl⟩ := State.flushWord_ok flush
    simp
  | read | write | begin | place | finish | load | close => simp
  | reset => exact absurd rfl hi

/-! ### A sealed bank -/

theorem ne_of_isSealed {s : State} {b c : Bank} (hb : (s.bank b).isSealed = true) (hc : (s.bank c).isSealed = false) :
    b ≠ c := by
  rintro rfl
  simp [hb] at hc

/-- A command that completes leaves a sealed bank as it is: the bank it changes is open. -/
theorem Completes.bank_eq_of_isSealed {s u : State} {i : Instr} (hu : Completes s i u) (h : s.Inv) (hi : i ≠ .rst)
    {b : Bank} (hb : (s.bank b).isSealed = true) : u.bank b = s.bank b := by
  have hpk : s.pkActive = true → b ≠ s.pkBank := fun active => ne_of_isSealed hb (h.filling active).opened
  cases hu with
  | read | place => simp
  | write _ idle opened accepts =>
    rw [State.writeTarget_eq, State.bank_setBank_other s _ (ne_of_isSealed hb opened)]
  | begin _ opened => exact State.bank_openPacker_other s (ne_of_isSealed hb opened)
  | fill active _ _ flush =>
    obtain ⟨-, -, rfl⟩ := State.flushWord_ok flush
    rw [State.bank_flushed_other _ (by simpa using hpk active), State.bank_placeElement]
  | finish active => exact State.bank_sealConstruction_other s (hpk active)
  | flushFinish active _ flush =>
    obtain ⟨-, -, rfl⟩ := State.flushWord_ok flush
    rw [State.bank_sealConstruction_other _ (by simpa using hpk active), State.bank_flushed_other s (hpk active)]
  | load _ opened | close _ opened => exact State.bank_setBank_other s _ (ne_of_isSealed hb opened)
  | reset => exact absurd rfl hi

theorem Answers.bank_eq_of_isSealed {s t : State} {i : Instr} (ht : Answers s i t) (h : s.Inv) (hi : i ≠ .rst)
    {b : Bank} (hb : (s.bank b).isSealed = true) : t.bank b = s.bank b := by
  cases ht with
  | ok d done => rw [State.bank_ok, done.bank_eq_of_isSealed h hi hb]
  | refused => exact s.bank_failed _ b
  | aborted _ active =>
    rw [State.bank_failed, State.bank_abortConstruction_other s (ne_of_isSealed hb (h.filling active).opened)]

/-! ### The lifecycle of a bank -/

theorem lifecycle_eq (s : State) (b : Bank) :
    lifecycle s b =
      if (s.bank b).isSealed then .closed else if s.pkActive = true ∧ s.pkBank = b then .packing else .opened := by
  cases b <;> rfl

/-- The lifecycle state depends only on the flags `SEALED`, `PK_ACTIVE` and `PK_BANK`. -/
theorem lifecycle_congr {s t : State} {b : Bank} (isSealed : (t.bank b).isSealed = (s.bank b).isSealed)
    (active : t.pkActive = s.pkActive) (bank : t.pkBank = s.pkBank) : lifecycle t b = lifecycle s b := by
  simp only [lifecycle_eq, isSealed, active, bank]

@[simp] theorem lifecycle_ok (s : State) (d : Nat) (b : Bank) : lifecycle (s.ok d) b = lifecycle s b :=
  lifecycle_congr (by simp) rfl rfl

@[simp] theorem lifecycle_failed (s : State) (n : Nat) (b : Bank) : lifecycle (s.failed n) b = lifecycle s b :=
  lifecycle_congr (by simp) rfl rfl

/-- A bank no construction is open on is open or sealed. -/
theorem lifecycle_not_packing {s : State} {b : Bank} (h : s.pkActive = true → s.pkBank ≠ b) :
    lifecycle s b = if (s.bank b).isSealed then .closed else .opened := by
  rw [lifecycle_eq, if_neg (fun hp : s.pkActive = true ∧ s.pkBank = b => h hp.1 hp.2)]

theorem lifecycle_idle {s : State} {b : Bank} (h : s.pkActive = false) :
    lifecycle s b = if (s.bank b).isSealed then .closed else .opened :=
  lifecycle_not_packing fun ha => absurd ha (by simp [h])

theorem lifecycle_pkBank {s : State} (active : s.pkActive = true) (opened : (s.bank s.pkBank).isSealed = false) :
    lifecycle s s.pkBank = .packing := by
  simp [lifecycle_eq, opened, active]

theorem lifecycle_setBank {s : State} {c : Bank} {x : BankState} (hx : x.isSealed = (s.bank c).isSealed) (b : Bank) :
    lifecycle (s.setBank c x) b = lifecycle s b := by
  refine lifecycle_congr ?_ (by simp) (by simp)
  by_cases hb : b = c
  · subst hb
    rw [State.bank_setBank_same, hx]
  · rw [State.bank_setBank_other s x hb]

@[simp] theorem lifecycle_flushed (s : State) (b : Bank) : lifecycle s.flushed b = lifecycle s b := by
  rw [← lifecycle_setBank (BankState.isSealed_appended (s.bank s.pkBank) s.acc) b]
  exact lifecycle_congr (by rw [State.bank_flushed]) (by simp) (by simp)

@[simp] theorem lifecycle_placeElement (s : State) (w v : Nat) (b : Bank) :
    lifecycle (s.placeElement w v) b = lifecycle s b :=
  lifecycle_congr (by simp) rfl rfl

/-! ### The rows of the table of 10_state.md rule R40 -/

/-- No row names a reading command. -/
theorem lifecycleAfter_of_readsOnly {i : Instr} (hr : readsOnly i = true) (b : Bank) (ok : Bool) (l : Lifecycle) :
    lifecycleAfter b i ok l = l := by
  cases i with
  | nop | csrr | rdword | unpack | get => cases l <;> rfl
  | csrw | pkbegin | pkpush | pkend | ldword | sealBank | rst => cases hr

/-- A refused command keeps the state, unless it is one that ends a construction. -/
theorem lifecycleAfter_refused {b : Bank} {i : Instr} {l : Lifecycle} (not_rst : i ≠ .rst)
    (hl : (∃ v, i = .pkpush v) ∨ i = .pkend → l ≠ .packing) : lifecycleAfter b i false l = l := by
  cases l with
  | opened => simp [lifecycleAfter]
  | closed => simp [lifecycleAfter, not_rst]
  | packing =>
    cases i with
    | pkpush v => exact absurd rfl (hl (.inl ⟨v, rfl⟩))
    | pkend => exact absurd rfl (hl (.inr rfl))
    | rst => exact absurd rfl not_rst
    | nop | csrr | csrw | pkbegin | ldword | sealBank | rdword | unpack | get => rfl

/-! ### The lifecycle of a bank after a command -/

theorem lifecycle_openPacker {s : State} {c : Bank} (idle : s.pkActive = false) (opened : (s.bank c).isSealed = false)
    (b : Bank) : lifecycle (s.openPacker c) b = lifecycleAfter b (.pkbegin c) true (lifecycle s b) := by
  rw [lifecycle_idle idle]
  by_cases hb : b = c
  · subst hb
    simp [lifecycle_eq, opened, lifecycleAfter]
  · rw [lifecycle_not_packing (by simpa using Ne.symm hb), State.bank_openPacker_other s hb]
    split <;> simp [lifecycleAfter, Ne.symm hb]

theorem lifecycle_sealConstruction {s : State} (active : s.pkActive = true)
    (opened : (s.bank s.pkBank).isSealed = false) (b : Bank) :
    lifecycle s.sealConstruction b = lifecycleAfter b .pkend true (lifecycle s b) := by
  rw [lifecycle_idle (by simp)]
  by_cases hb : b = s.pkBank
  · subst hb
    simp [lifecycle_pkBank active opened, lifecycleAfter]
  · rw [lifecycle_not_packing fun _ => Ne.symm hb, State.bank_sealConstruction_other s hb]
    split <;> rfl

theorem lifecycle_abortConstruction {s : State} (active : s.pkActive = true)
    (opened : (s.bank s.pkBank).isSealed = false) (v : Nat) (b : Bank) :
    lifecycle s.abortConstruction b = lifecycleAfter b (.pkpush v) false (lifecycle s b) := by
  rw [lifecycle_idle (by simp)]
  by_cases hb : b = s.pkBank
  · subst hb
    simp [lifecycle_pkBank active opened, opened, lifecycleAfter]
  · rw [lifecycle_not_packing fun _ => Ne.symm hb, State.bank_abortConstruction_other s hb]
    split <;> simp [lifecycleAfter]

theorem lifecycle_close {s : State} {c : Bank} (idle : s.pkActive = false) (opened : (s.bank c).isSealed = false)
    (b : Bank) :
    lifecycle (s.setBank c { s.bank c with isSealed := true }) b =
      lifecycleAfter b (.sealBank c) true (lifecycle s b) := by
  rw [lifecycle_idle idle, lifecycle_idle (by simpa using idle)]
  by_cases hb : b = c
  · subst hb
    simp [opened, lifecycleAfter]
  · rw [State.bank_setBank_other s _ hb]
    split <;> simp [lifecycleAfter, Ne.symm hb]

theorem Completes.lifecycle_eq {s u : State} {i : Instr} (hu : Completes s i u) (h : s.Inv) (b : Bank) :
    lifecycle u b = lifecycleAfter b i true (lifecycle s b) := by
  cases hu with
  | read reads => rw [lifecycleAfter_of_readsOnly reads]
  | write =>
    rw [State.writeTarget_eq, lifecycle_setBank (by simp)]
    cases lifecycle s b <;> simp [lifecycleAfter]
  | begin idle opened => exact lifecycle_openPacker idle opened b
  | place =>
    rw [lifecycle_placeElement]
    cases lifecycle s b <;> simp [lifecycleAfter]
  | fill _ _ _ flush =>
    obtain ⟨-, -, rfl⟩ := State.flushWord_ok flush
    rw [lifecycle_flushed, lifecycle_placeElement]
    cases lifecycle s b <;> simp [lifecycleAfter]
  | finish active => exact lifecycle_sealConstruction active (h.filling active).opened b
  | flushFinish active _ flush =>
    obtain ⟨-, -, rfl⟩ := State.flushWord_ok flush
    rw [lifecycle_sealConstruction (by simpa using active) (by simpa using (h.filling active).opened),
      lifecycle_flushed]
  | load =>
    rw [lifecycle_setBank (by simp)]
    cases lifecycle s b <;> simp [lifecycleAfter]
  | close idle opened => exact lifecycle_close idle opened b
  | reset =>
    rw [lifecycle_idle (by simp), State.bank_clearAll]
    cases lifecycle s b <;> simp [lifecycleAfter]

/-- The status of an error response is its code (60_exceptions.md rule R180). -/
theorem toNat_status {n : Nat} (code : 1 ≤ n ∧ n ≤ 11) : (BitVec.ofNat 8 n).toNat = n := by
  rw [BitVec.toNat_ofNat]
  omega

/-- The status of an error response is not that of a success. -/
theorem status_ne_success {n : Nat} (code : 1 ≤ n ∧ n ≤ 11) : (BitVec.ofNat 8 n == 0#8) = false := by
  refine beq_false_of_ne fun h => ?_
  have hn := toNat_status code
  rw [h, BitVec.toNat_ofNat] at hn
  omega

theorem Answers.lifecycle_eq {s t : State} {i : Instr} {r : Response} (ht : Answers s i t) (h : s.Inv)
    (hr : t.responses = r :: s.responses) (b : Bank) :
    lifecycle t b = lifecycleAfter b i (r.status == 0#8) (lifecycle s b) := by
  cases ht with
  | ok d done =>
    obtain ⟨rfl, -⟩ := List.cons.inj hr
    rw [lifecycle_ok]
    exact done.lifecycle_eq h b
  | refused code not_rst idle =>
    obtain ⟨rfl, -⟩ := List.cons.inj hr
    rw [lifecycle_failed, status_ne_success code, lifecycleAfter_refused not_rst]
    intro hi
    rw [lifecycle_idle (idle hi)]
    split <;> simp
  | aborted code active =>
    obtain ⟨rfl, -⟩ := List.cons.inj hr
    rw [lifecycle_failed, status_ne_success code]
    exact lifecycle_abortConstruction active (h.filling active).opened _ b

/-- Bit `n` of `ERR` after an error, told from the status of its response: codes are above 0. -/
theorem State.err_failed_by_status (s : State) {m n : Nat} (code : 1 ≤ m ∧ m ≤ 11) (hn : n < 12) :
    (s.failed m).err.getLsbD n =
      (s.err.getLsbD n || decide (n ≠ 0 ∧ (BitVec.ofNat 8 m).toNat = n)) := by
  have hbit : n = m ↔ n ≠ 0 ∧ (BitVec.ofNat 8 m).toNat = n := by rw [toNat_status code]; omega
  rw [s.getLsbD_err_failed m hn, decide_eq_decide.mpr hbit]

/-- What one response says of `ERR` (10_state.md rule R26): an error sets the bit of its code and no other. -/
theorem Answers.err_bits {s t : State} {i : Instr} (ht : Answers s i t) (hi : i ≠ .rst) :
    ∃ r, t.responses = r :: s.responses ∧
      ∀ n, n < 12 → t.err.getLsbD n = (s.err.getLsbD n || decide (n ≠ 0 ∧ r.status.toNat = n)) := by
  cases ht with
  | ok d done =>
    refine ⟨⟨0#8, d⟩, by rw [State.responses_ok, done.responses_eq], fun n _ => ?_⟩
    rw [State.err_ok, done.err_eq hi, decide_eq_false (by simp [eq_comm]), Bool.or_false]
  | refused code => exact ⟨_, rfl, fun _ => s.err_failed_by_status code⟩
  | aborted code =>
    refine ⟨_, by rw [State.responses_failed, State.responses_abortConstruction], fun n hn => ?_⟩
    rw [State.err_failed_by_status _ code hn, State.err_abortConstruction]

end Sys2Proof.Machine
end

section
/-! PROOF. The statements about the state, its reset and what every step keeps (10_state.md). -/

namespace Sys2Proof.Proofs

open Sys2Proof.Machine

/-- Settles O12: each command that completes keeps the invariant, and so do an error, an aborted construction and a
reset. -/
theorem stepKeepsTheInvariant : Obligations.StepKeepsTheInvariant := fun _ _ => step_keeps_inv

/-- Settles O15: no form of an answer changes the parameters, and a reset keeps them. -/
theorem stepKeepsTheParameters : Obligations.StepKeepsTheParameters := by
  intro s t h
  obtain ⟨-, ⟨-, rfl⟩ | ⟨_, _, -, rfl⟩ | ⟨_, _, _, -, -, hexec⟩ | ⟨_, _, _, -, -, rfl⟩⟩ := step_next h
  · rfl
  · rfl
  · exact (exec_answers hexec).params_eq
  · rfl

/-- Settles O16: the lengths and counts by the capacity (rule R33), the staging word by the elements staged. -/
theorem registersFitTheirWidths : Obligations.RegistersFitTheirWidths := by
  intro s h
  refine ⟨fun b => ⟨lt_two_pow_widthBits (h.bank b).width_le, (h.bank b).len_lt, h.nw_lt b⟩, ?_⟩
  cases active : s.pkActive with
  | false =>
    obtain ⟨-, acc, cnt, count⟩ := h.idle active
    rw [acc, cnt, count]
    exact ⟨Nat.two_pow_pos _, Nat.two_pow_pos _, Nat.two_pow_pos _⟩
  | true =>
    have hf := h.filling active
    exact ⟨h.pkCount_lt active, h.acc_lt active, lt_two_pow_widthBits (hf.cnt_lt.le.trans (epw_le hf.width_pos))⟩

/-- Settles O37: a bit is set by `Answers.err_bits`, cleared by a reset alone, and bit 0 by the invariant. -/
theorem errIsAStickyMask : Obligations.ErrIsAStickyMask := by
  refine ⟨fun i s t hi h => (exec_answers h).err_bits hi, ?_, ?_, ?_, ?_, ?_, ?_⟩
  · intro op s t h n hn
    rw [State.raise_next h]
    exact State.getLsbD_err_failed s 4 hn
  · intro s t h
    rw [execRst_next h]
    rfl
  · intro s t lost rest hp h
    rw [step_reset_next hp h]
    rfl
  · intro s
    refine ⟨rfl, fun n hn => ?_⟩
    rw [BitVec.testBit_toNat]
    exact BitVec.getLsbD_of_ge _ _ hn
  · intro s v
    rfl
  · intro s t h ht
    exact (step_keeps_inv h ht).err

/-- Settles O38: every bank a command changes is open, that under construction by the invariant. -/
theorem sealedBankIsImmutable : Obligations.SealedBankIsImmutable :=
  fun _ _ _ _ h hi ht hb => (exec_answers ht).bank_eq_of_isSealed h hi hb

/-- Settles O39: each form of an answer follows its row of the table. -/
theorem lifecycleFollowsTheTable : Obligations.LifecycleFollowsTheTable :=
  fun _ _ _ _ b h ht hr => (exec_answers ht).lifecycle_eq h hr b

/-- Settles O10: after each of the four resets the state is one that `State.clearAll` gives. -/
theorem resetValues : Obligations.ResetValues := by
  intro s t h
  obtain ⟨u, rfl⟩ : ∃ u : State, s = u.clearAll := by
    obtain ⟨p, rfl⟩ | rfl | h | ⟨lost, rest, hp, h⟩ := h
    · exact ⟨State.init p, rfl⟩
    · exact ⟨State.reset, rfl⟩
    · exact ⟨t.ok 0, execRst_next h⟩
    · exact ⟨_, step_reset_next hp h⟩
  have no_word : ∀ b a, u.clearAll.word? b a = none := fun b a => State.word?_of_ge (by simp)
  have status : u.clearAll.csrValue .status = .ok 0 := by simp [State.csrValue, statusView, bankFlag]
  exact ⟨rfl, rfl, rfl, rfl, rfl, rfl, rfl, rfl, rfl, rfl, rfl, rfl, rfl, rfl, no_word, rfl, status,
    rfl, rfl⟩

/-- Settles O11: a state right after reset is one that `State.clearAll` gives. -/
theorem resetMeetsTheInvariant : Obligations.ResetMeetsTheInvariant :=
  ⟨fun p legal => State.inv_clearAll (s := State.init p) legal,
    State.inv_clearAll (s := State.reset) (by decide)⟩

/-- `GET` is refused while bank `KEY` is open (43_dictmap.md rule R151). -/
theorem exec_get_of_key_open {s : State} (h : s.key.isSealed = false) (k : Nat) :
    exec (.get k) s = .next (s.failed 6) := by
  simp [exec, execGet, h, State.raise_eq, errorCode]

/-- `CSRR ERR` answers the mask where it fits a word (44_system.md rule R166). -/
theorem exec_csrr_err {s : State} (h : s.err.toNat < 2 ^ s.params.wordBits) :
    exec (.csrr 2) s = .next (s.ok s.err.toNat) :=
  s.respond_of_lt h

/-- Settles O42: the failing `GET` sets bit 6 of `ERR`, which only a later `CSRR ERR` answers. -/
theorem csrrErrSeesAFailedRead : Obligations.CsrrErrSeesAFailedRead := by
  constructor
  · refine ⟨(State.reset.failed 6).ok 0x040, ?_, rfl⟩
    have read : exec (.csrr 2) (State.reset.failed 6) = .next ((State.reset.failed 6).ok 0x040) :=
      exec_csrr_err (by decide)
    exact runAll_cons_next.mpr ⟨_, exec_get_of_key_open rfl 0, runAll_cons_next.mpr ⟨_, read, rfl⟩⟩
  · refine ⟨(State.reset.ok 0).failed 6, ?_, rfl⟩
    have read : exec (.csrr 2) State.reset = .next (State.reset.ok 0) := exec_csrr_err (by decide)
    exact runAll_cons_next.mpr ⟨_, read, runAll_cons_next.mpr ⟨_, exec_get_of_key_open rfl 0, rfl⟩⟩

end Sys2Proof.Proofs
end

section
/-! SUPPORT. Every command, and so every step, keeps both memories in canonical form (20_memory.md rules R77, R79). -/

namespace Sys2Proof.Machine

/-- The canonical form depends on the words of the banks alone. -/
theorem State.MemWf.of_mem_eq {s t : State} (h : s.MemWf) (ht : ∀ b, (t.bank b).mem = (s.bank b).mem) : t.MemWf :=
  fun b => ht b ▸ h b

theorem State.MemWf.ok {s : State} (h : s.MemWf) (d : Nat) : (s.ok d).MemWf := h.of_mem_eq fun b => by simp

theorem State.MemWf.failed {s : State} (h : s.MemWf) (n : Nat) : (s.failed n).MemWf := h.of_mem_eq fun b => by simp

theorem State.MemWf.with_port {s : State} (h : s.MemWf) (port : List HostEvent) :
    ({ s with port := port } : State).MemWf :=
  h.of_mem_eq fun b => by cases b <;> rfl

/-- A bank may be replaced by one with the same words. -/
theorem State.MemWf.setBank_of_mem_eq {s : State} (h : s.MemWf) {b : Bank} {x : BankState}
    (hx : x.mem = (s.bank b).mem) : (s.setBank b x).MemWf :=
  State.memWf_setBank h (hx ▸ h b)

@[simp] theorem BankState.mem_written (x : BankState) (v : Nat) (g : CsrTarget) : (x.written v g).mem = x.mem := by
  cases g <;> rfl

theorem State.MemWf.clearPacker {s : State} (h : s.MemWf) : s.clearPacker.MemWf := h.of_mem_eq fun b => by simp

theorem State.MemWf.abortConstruction {s : State} (h : s.MemWf) : s.abortConstruction.MemWf :=
  (State.memWf_discardWords h s.pkBank).clearPacker

theorem State.MemWf.sealConstruction {s : State} (h : s.MemWf) : s.sealConstruction.MemWf :=
  State.MemWf.clearPacker (h.setBank_of_mem_eq rfl)

theorem State.MemWf.openPacker {s : State} (h : s.MemWf) (b : Bank) : (s.openPacker b).MemWf :=
  (State.memWf_discardWords h b).of_mem_eq fun c => by rw [State.bank_openPacker]

theorem State.MemWf.placeElement {s : State} (h : s.MemWf) (w v : Nat) : (s.placeElement w v).MemWf :=
  h.of_mem_eq fun b => by simp

theorem State.MemWf.flushed {s : State} (h : s.MemWf) : s.flushed.MemWf :=
  (State.memWf_appended h s.pkBank s.acc).of_mem_eq fun c => by rw [State.bank_flushed]

/-- Words are only appended in address order or discarded whole. -/
theorem Completes.keeps_memWf {s u : State} {i : Instr} (hu : Completes s i u) (h : s.MemWf) : u.MemWf := by
  cases hu with
  | read => exact h
  | write =>
    rw [State.writeTarget_eq]
    exact h.setBank_of_mem_eq (by simp)
  | begin => exact h.openPacker _
  | place => exact h.placeElement _ _
  | fill _ _ _ flush =>
    obtain ⟨-, -, rfl⟩ := State.flushWord_ok flush
    exact (h.placeElement _ _).flushed
  | finish => exact h.sealConstruction
  | flushFinish _ _ flush =>
    obtain ⟨-, -, rfl⟩ := State.flushWord_ok flush
    exact h.flushed.sealConstruction
  | load => exact State.memWf_appended h _ _
  | close => exact h.setBank_of_mem_eq rfl
  | reset => exact State.memWf_clearAll s

theorem exec_keeps_memWf {i : Instr} {s t : State} (h : s.MemWf) (ht : exec i s = .next t) : t.MemWf := by
  cases exec_answers ht with
  | ok d done => exact (done.keeps_memWf h).ok d
  | refused => exact h.failed _
  | aborted => exact h.abortConstruction.failed _

end Sys2Proof.Machine
end

section
/-! SUPPORT. The two shapes of a group (20_memory.md rules R63 to R66): whole bytes, or, where the cap of rule R64
applies, the only group of its word. -/

namespace Sys2Proof.Machine

theorem naturalGroup_mul_gcd (w : Nat) : naturalGroup w * Nat.gcd w 8 = 8 :=
  Nat.div_mul_cancel (Nat.gcd_dvd_right w 8)

/-- The natural group takes whole bytes. -/
theorem naturalGroup_mul_mod (w : Nat) : naturalGroup w * w % 8 = 0 := by
  obtain ⟨c, hc⟩ := Nat.gcd_dvd_left w 8
  refine Nat.mod_eq_zero_of_dvd ⟨c, ?_⟩
  calc naturalGroup w * w = naturalGroup w * Nat.gcd w 8 * c := by rw [Nat.mul_assoc, ← hc]
    _ = 8 * c := by rw [naturalGroup_mul_gcd]

/-- No smaller group takes whole bytes: the bytes are a multiple of `8 / gcd(W, 8)`, which has no factor of
`W / gcd(W, 8)`. -/
theorem naturalGroup_le {w g : Nat} (hg : 1 ≤ g) (hw : g * w % 8 = 0) : naturalGroup w ≤ g := by
  have hgcd : 0 < Nat.gcd w 8 := Nat.gcd_pos_of_pos_right w (by decide)
  have hcoprime : Nat.Coprime (8 / Nat.gcd w 8) (w / Nat.gcd w 8) := (Nat.coprime_div_gcd_div_gcd hgcd).symm
  have hdvd : 8 / Nat.gcd w 8 ∣ g * (w / Nat.gcd w 8) := by
    rw [← Nat.mul_div_assoc g (Nat.gcd_dvd_left w 8)]
    exact Nat.div_dvd_div (Nat.gcd_dvd_right w 8) (Nat.dvd_of_mod_eq_zero hw)
  exact Nat.le_of_dvd hg (hcoprime.dvd_of_dvd_mul_right hdvd)

/-- The natural group depends on the residue of the width alone. -/
theorem naturalGroup_mod (w : Nat) : naturalGroup w = naturalGroup (w % 8) := by
  rw [naturalGroup, naturalGroup, Nat.gcd_comm w 8, Nat.gcd_rec 8 w]

theorem eRaw_pos {b w : Nat} (h1 : 1 ≤ w) (h2 : w ≤ b) : 0 < eRaw b w := Nat.div_pos h2 h1

/-- A group fits its bytes. -/
theorem groupSize_mul_le_groupBytes (b w : Nat) : groupSize b w * w ≤ 8 * groupBytes b w := by
  unfold groupBytes ceilDiv
  omega

/-- A group is the natural one and takes whole bytes, or the cap of rule R64 gives it every raw element. -/
theorem group_cases (b w : Nat) :
    (groupSize b w = naturalGroup w ∧ 8 * groupBytes b w = groupSize b w * w) ∨
      (b < naturalGroup w * w ∧ groupSize b w = eRaw b w) := by
  by_cases h : naturalGroup w * w ≤ b
  · have hG : groupSize b w = naturalGroup w := if_pos h
    have hmod := naturalGroup_mul_mod w
    refine .inl ⟨hG, ?_⟩
    rw [groupBytes, hG, ceilDiv]
    omega
  · exact .inr ⟨Nat.lt_of_not_le h, if_neg h⟩

/-- A capped group leaves no room for a second one: twice its bytes exceed the word. -/
theorem groupsPerWord_capped {b w : Nat} (h8 : b % 8 = 0) (h1 : 1 ≤ w) (h2 : w ≤ b)
    (hG : groupSize b w = eRaw b w) : groupsPerWord b w = 1 := by
  have hle := groupSize_mul_le b w
  have hpos := eRaw_pos h1 h2
  have hlt : b < eRaw b w * w + w := by
    rw [← Nat.succ_mul]
    exact Nat.lt_mul_of_div_lt (Nat.lt_succ_self _) h1
  have hw : w ≤ eRaw b w * w := Nat.le_mul_of_pos_left w hpos
  rw [hG] at hle
  refine Nat.div_eq_of_lt_le ?_ ?_ <;> rw [groupBytes, hG, ceilDiv] <;> omega

/-- The groups of a word are the whole groups among its raw elements (rule R65). -/
theorem groupsPerWord_eq {b w : Nat} (h8 : b % 8 = 0) (h1 : 1 ≤ w) (h2 : w ≤ b) :
    groupsPerWord b w = eRaw b w / groupSize b w := by
  obtain ⟨-, whole⟩ | ⟨-, capped⟩ := group_cases b w
  · rw [groupsPerWord, eRaw, Nat.div_div_eq_div_mul, Nat.div_div_eq_div_mul, whole, Nat.mul_comm]
  · rw [groupsPerWord_capped h8 h1 h2 capped, capped, Nat.div_self (eRaw_pos h1 h2)]

/-- The count is the raw one where whole groups fill the raw elements. -/
theorem epw_eq_eRaw {b w : Nat} (h8 : b % 8 = 0) (h1 : 1 ≤ w) (h2 : w ≤ b) (h : groupSize b w ∣ eRaw b w) :
    epw b w = eRaw b w := by
  rw [epw, groupsPerWord_eq h8 h1 h2, Nat.mul_div_cancel' h]

/-- A width of whole bytes makes groups of one element, a divisor of 8 groups of one byte, and a capped group holds all
raw elements. -/
theorem groupSize_dvd_eRaw {b w : Nat} (h8 : b % 8 = 0)
    (h : 8 ∣ w ∨ w ∣ 8 ∨ b < naturalGroup w * w) : groupSize b w ∣ eRaw b w := by
  obtain ⟨natural, -⟩ | ⟨-, capped⟩ := group_cases b w
  · rw [natural]
    rcases h with hw | hw | hw
    · rw [naturalGroup, Nat.gcd_eq_right hw]
      exact one_dvd _
    · rw [naturalGroup, Nat.gcd_eq_left hw]
      exact Nat.div_dvd_div hw (Nat.dvd_of_mod_eq_zero h8)
    · exact absurd (natural ▸ groupSize_mul_le b w) (Nat.not_le.mpr hw)
  · rw [capped]

end Sys2Proof.Machine
end

section
/-! SUPPORT. The bits of a sum of lanes, of a word made by the byte procedure and of one in closed form
(20_memory.md rules R68, R70). -/

namespace Sys2Proof.Machine

theorem sumTo_congr {n : Nat} {f g : Nat → Nat} (h : ∀ j, j < n → f j = g j) : sumTo n f = sumTo n g := by
  induction n with
  | zero => rfl
  | succ n ih => rw [sumTo, sumTo, ih fun j hj => h j (hj.trans n.lt_succ_self), h n n.lt_succ_self]

theorem sumTo_succ_left (n : Nat) (f : Nat → Nat) : sumTo (n + 1) f = f 0 + sumTo n fun j => f (j + 1) := by
  induction n with
  | zero => simp [sumTo]
  | succ n ih => rw [sumTo, ih, sumTo, Nat.add_assoc]

/-- A sum may be taken from its last term down. -/
theorem sumTo_reverse (n : Nat) (f : Nat → Nat) : (sumTo n fun j => f (n - 1 - j)) = sumTo n f := by
  induction n with
  | zero => rfl
  | succ n ih =>
    rw [sumTo_succ_left, sumTo, Nat.add_comm, ← ih]
    congr 1
    refine sumTo_congr fun j hj => congrArg f ?_
    omega

theorem mul_sumTo (c n : Nat) (f : Nat → Nat) : (sumTo n fun j => c * f j) = c * sumTo n f := by
  induction n with
  | zero => rfl
  | succ n ih => rw [sumTo, ih, sumTo, Nat.mul_add]

/-- The lanes from lane 1 up are lanes of the word shifted down by one lane. -/
theorem sumTo_lanes_succ (w n : Nat) (f : Nat → Nat) :
    (sumTo (n + 1) fun j => f j <<< (j * w)) = 2 ^ w * (sumTo n fun j => f (j + 1) <<< (j * w)) + f 0 := by
  have hshift : ∀ j, f (j + 1) <<< ((j + 1) * w) = 2 ^ w * (f (j + 1) <<< (j * w)) := fun j => by
    rw [Nat.shiftLeft_eq, Nat.shiftLeft_eq, Nat.succ_mul, Nat.pow_add]
    ring
  rw [sumTo_succ_left, sumTo_congr fun j _ => hshift j, mul_sumTo, Nat.zero_mul, Nat.shiftLeft_zero, Nat.add_comm]

/-- Bit `m` of a sum of lanes of `w` bits is bit `m % w` of lane `m / w`. -/
theorem testBit_sumTo_lanes {w : Nat} (hw : 1 ≤ w) {n : Nat} {f : Nat → Nat} (h : ∀ j, j < n → f j < 2 ^ w) (m : Nat) :
    (sumTo n fun j => f j <<< (j * w)).testBit m = (decide (m / w < n) && (f (m / w)).testBit (m % w)) := by
  induction n generalizing f m with
  | zero => simp [sumTo]
  | succ n ih =>
    rw [sumTo_lanes_succ, Nat.testBit_two_pow_mul_add _ (h 0 n.succ_pos)]
    by_cases hm : m < w
    · simp [hm, Nat.div_eq_of_lt hm, Nat.mod_eq_of_lt hm]
    · obtain ⟨k, rfl⟩ := Nat.exists_eq_add_of_le (Nat.le_of_not_lt hm)
      rw [if_neg hm, Nat.add_sub_cancel_left, ih fun j hj => h (j + 1) (Nat.succ_lt_succ hj)]
      simp [Nat.add_div_left k hw]

/-- Bit `m` of a packed word is bit `m % W` of element `m / W` (rule R70). -/
theorem testBit_packWord {b w : Nat} (hw : 1 ≤ w) {e : Nat → Nat} (he : ∀ j, j < epw b w → e j < 2 ^ w) (m : Nat) :
    (packWord b w e).testBit m = (decide (m / w < epw b w) && (e (m / w)).testBit (m % w)) :=
  testBit_sumTo_lanes hw he m

theorem preByte_lt (b w : Nat) (e : Nat → Nat) (s : Nat) : preByte b w e s < 2 ^ 8 := by
  unfold preByte
  split
  · exact Nat.mod_lt _ (by decide)
  · decide

/-- Steps c and d of rule R68 put byte `s` of the byte sequence at bit `8 * s`. -/
theorem bigEndianWord_reversedByte (b : Nat) (p : Nat → Nat) :
    bigEndianWord b (reversedByte b p) = sumTo (b / 8) fun s => p s <<< (s * 8) := by
  rw [← sumTo_reverse]
  refine sumTo_congr fun t _ => ?_
  rw [reversedByte, Nat.shiftLeft_eq, Nat.mul_comm _ 8, Nat.pow_mul]

/-- Bit `m` of the word the byte procedure makes: bit `m % (8 * LG)` of the accumulator of group `m / (8 * LG)`. -/
theorem testBit_packWordByBytes {b w : Nat} (e : Nat → Nat) (m : Nat) :
    (packWordByBytes b w e).testBit m =
      (decide (m / 8 < groupsPerWord b w * groupBytes b w) &&
        (groupAcc b w e (m / (8 * groupBytes b w))).testBit (m % (8 * groupBytes b w))) := by
  have hbytes : groupsPerWord b w * groupBytes b w ≤ b / 8 := Nat.div_mul_le_self _ _
  rw [packWordByBytes, bigEndianWord_reversedByte, testBit_sumTo_lanes (by decide) fun s _ => preByte_lt b w e s]
  unfold preByte
  by_cases hm : m / 8 < groupsPerWord b w * groupBytes b w
  · have hbit : 8 * (m / 8 % groupBytes b w) + m % 8 = m % (8 * groupBytes b w) := by
      rw [Nat.mod_mul, Nat.add_comm]
    rw [if_pos hm, Nat.testBit_mod_two_pow (j := 8), Nat.testBit_shiftRight, hbit, Nat.div_div_eq_div_mul]
    simp [hm, hm.trans_le hbytes, Nat.mod_lt]
  · simp [hm]

/-- Element `k` of group `g` is one of the word's elements. -/
theorem group_element_lt {b w g k : Nat} (hg : g < groupsPerWord b w) (hk : k < groupSize b w) :
    g * groupSize b w + k < epw b w :=
  calc g * groupSize b w + k < (g + 1) * groupSize b w := by rw [Nat.succ_mul]; omega
    _ ≤ groupsPerWord b w * groupSize b w := Nat.mul_le_mul_right _ hg
    _ = epw b w := Nat.mul_comm _ _

/-- Bit `x` of the accumulator of group `g` is bit `x % W` of the group's element `x / W`. -/
theorem testBit_groupAcc {b w : Nat} (hw : 1 ≤ w) {e : Nat → Nat} (he : ∀ j, j < epw b w → e j < 2 ^ w) {g : Nat}
    (hg : g < groupsPerWord b w) (x : Nat) :
    (groupAcc b w e g).testBit x =
      (decide (x / w < groupSize b w) && (e (g * groupSize b w + x / w)).testBit (x % w)) :=
  testBit_sumTo_lanes hw (fun _ hk => he _ (group_element_lt hg hk)) x

/-- Groups of whole bytes leave no gap: the procedure gives the closed form bit by bit. -/
theorem testBit_packWordByBytes_of_whole {b w : Nat} (hw : 1 ≤ w) {e : Nat → Nat}
    (he : ∀ j, j < epw b w → e j < 2 ^ w) (hG : 0 < groupSize b w) (whole : 8 * groupBytes b w = groupSize b w * w)
    (m : Nat) : (packWordByBytes b w e).testBit m = (packWord b w e).testBit m := by
  have hbits : groupsPerWord b w * groupBytes b w * 8 = epw b w * w := by
    rw [epw, Nat.mul_assoc, Nat.mul_comm (groupBytes b w), whole]
    ring
  have hrange : m / 8 < groupsPerWord b w * groupBytes b w ↔ m / w < epw b w := by
    rw [Nat.div_lt_iff_lt_mul (by decide), hbits, Nat.div_lt_iff_lt_mul hw]
  rw [testBit_packWordByBytes, testBit_packWord hw he, whole]
  by_cases hm : m / w < epw b w
  · have hgroup : m / (groupSize b w * w) = m / w / groupSize b w := by
      rw [Nat.div_div_eq_div_mul, Nat.mul_comm]
    have hg : m / w / groupSize b w < groupsPerWord b w := by
      rwa [Nat.div_lt_iff_lt_mul hG, Nat.mul_comm]
    rw [hgroup, testBit_groupAcc hw he hg, Nat.mod_mul_left_div_self, Nat.mod_mul_left_mod, Nat.div_add_mod']
    simp [hrange.mpr hm, hm, Nat.mod_lt _ hG]
  · simp [mt hrange.mp hm, hm]

/-- The only group of a word begins at bit 0: the procedure gives the closed form bit by bit. -/
theorem testBit_packWordByBytes_of_one {b w : Nat} (hw : 1 ≤ w) {e : Nat → Nat}
    (he : ∀ j, j < epw b w → e j < 2 ^ w) (one : groupsPerWord b w = 1) (m : Nat) :
    (packWordByBytes b w e).testBit m = (packWord b w e).testBit m := by
  have hepw : epw b w = groupSize b w := by rw [epw, one, Nat.mul_one]
  have hfits := groupSize_mul_le_groupBytes b w
  have hinside : m / w < groupSize b w → m < groupSize b w * w := (Nat.div_lt_iff_lt_mul hw).mp
  rw [testBit_packWordByBytes, testBit_packWord hw he, one, hepw, Nat.one_mul]
  by_cases hm : m < 8 * groupBytes b w
  · have hbyte : m / 8 < groupBytes b w := by omega
    rw [Nat.div_eq_of_lt hm, Nat.mod_eq_of_lt hm, testBit_groupAcc hw he (one ▸ Nat.one_pos)]
    simp [hbyte]
  · have hbyte : ¬ m / 8 < groupBytes b w := by omega
    have hlane : ¬ m / w < groupSize b w := fun h => hm ((hinside h).trans_le hfits)
    simp [hbyte, hlane]

/-- The byte procedure of rule R68 gives the closed form of rule R70. -/
theorem packWordByBytes_eq {b w : Nat} (h8 : b % 8 = 0) (h1 : 1 ≤ w) (h2 : w ≤ b) {e : Nat → Nat}
    (he : ∀ j, j < epw b w → e j < 2 ^ w) : packWordByBytes b w e = packWord b w e := by
  refine Nat.eq_of_testBit_eq ?_
  obtain ⟨-, whole⟩ | ⟨-, capped⟩ := group_cases b w
  · exact testBit_packWordByBytes_of_whole h1 he (groupSize_pos h1 h2) whole
  · exact testBit_packWordByBytes_of_one h1 he (groupsPerWord_capped h8 h1 h2 capped)

/-- A packed array's word is the closed form of its elements, each of which fits the width. -/
theorem getElem?_of_pack {b w : Nat} {values ws : List Nat} (h8 : b % 8 = 0) (h1 : 1 ≤ w) (h2 : w ≤ b)
    (h : pack b w values = .ok ws) {q word : Nat} (hq : ws[q]? = some word) :
    (∀ j, elementsOfWord b w values q j < 2 ^ w) ∧ word = packWord b w (elementsOfWord b w values q) := by
  unfold pack at h
  split at h
  · next fits =>
    have hfits : ∀ j, elementsOfWord b w values q j < 2 ^ w := fun j => by
      rw [elementsOfWord, List.getD_eq_getElem?_getD]
      cases hv : values[q * epw b w + j]? with
      | none => exact Nat.two_pow_pos w
      | some v => exact of_decide_eq_true (List.all_eq_true.mp fits v (List.mem_of_getElem? hv))
    cases h
    obtain ⟨_, rfl⟩ := List.getElem?_eq_some_iff.mp hq
    rw [List.getElem_map, List.getElem_range]
    exact ⟨hfits, packWordByBytes_eq h8 h1 h2 fun j _ => hfits j⟩
  · cases h

end Sys2Proof.Machine
end

section
/-! SUPPORT. What a reading command answers depends on neither `ERR` nor what the host has received, `CSRR ERR` apart; so
of a run of them each answers as the first state alone would (20_memory.md rule R81, 60_exceptions.md rule R190). -/

namespace Sys2Proof.Machine

/-! ### One response -/

/-- The bits of `ERR` a response stands for: that of its code on an error, none on a success (10_state.md rule R26). -/
def Response.errBits (r : Response) : BitVec 12 := if r.status = 0#8 then 0#12 else 1#12 <<< r.status.toNat

/-- The state after a reading command that is answered with `r`. -/
def State.answered (s : State) (r : Response) : State :=
  { s with err := s.err ||| r.errBits, responses := r :: s.responses }

theorem State.answered_success (s : State) (d : Nat) : s.answered ⟨0#8, d⟩ = s.ok d := by
  simp [State.answered, State.ok, Response.errBits]

theorem State.answered_error (s : State) {n : Nat} (code : 1 ≤ n ∧ n ≤ 11) :
    s.answered ⟨BitVec.ofNat 8 n, 0⟩ = s.failed n := by
  have hstatus : BitVec.ofNat 8 n ≠ 0#8 := beq_eq_false_iff_ne.mp (status_ne_success code)
  simp only [State.answered, State.failed, Response.errBits, if_neg hstatus, toNat_status code]

/-- `s` with another `ERR` and other responses received: the part of the state a reading command changes. -/
def State.withErr (s : State) (e : BitVec 12) (rs : List Response) : State := { s with err := e, responses := rs }

@[simp] theorem State.params_withErr (s : State) (e : BitVec 12) (rs : List Response) :
    (s.withErr e rs).params = s.params := rfl
@[simp] theorem State.key_withErr (s : State) (e : BitVec 12) (rs : List Response) :
    (s.withErr e rs).key = s.key := rfl
@[simp] theorem State.val_withErr (s : State) (e : BitVec 12) (rs : List Response) :
    (s.withErr e rs).val = s.val := rfl
@[simp] theorem State.bank_withErr (s : State) (e : BitVec 12) (rs : List Response) (b : Bank) :
    (s.withErr e rs).bank b = s.bank b := by
  cases b <;> rfl
@[simp] theorem State.word?_withErr (s : State) (e : BitVec 12) (rs : List Response) (b : Bank) (a : Nat) :
    (s.withErr e rs).word? b a = s.word? b a := by
  simp [State.word?]
@[simp] theorem State.width?_withErr (s : State) (e : BitVec 12) (rs : List Response) (b : Bank) :
    (s.withErr e rs).width? b = s.width? b := by
  simp [State.width?]
@[simp] theorem State.element_withErr (s : State) (e : BitVec 12) (rs : List Response) (b : Bank) (i : Nat) :
    (s.withErr e rs).element b i = s.element b i := by
  simp [State.element]

/-- Of the registers only `ERR` shows `ERR`. -/
theorem State.csrValue_withErr (s : State) {e : BitVec 12} (rs : List Response) {c : Csr}
    (h : c ≠ .err ∨ e = s.err) : (s.withErr e rs).csrValue c = s.csrValue c := by
  cases c with
  | err =>
    obtain rfl := h.resolve_left (· rfl)
    rfl
  | wordbits | status | wKey | wVal | lenKey | lenVal | nwKey | nwVal | pkCount | epwKey | epwVal => rfl

/-! ### The same answer from two states -/

/-- `o` and `o'` are the outcomes of one reading command from `s` and from `s'`: the same response, or the same fault. -/
inductive SameAnswer (s s' : State) :
    Host.Outcome State Fault Refusal → Host.Outcome State Fault Refusal → Prop
  | answer (r : Response) : SameAnswer s s' (.next (s.answered r)) (.next (s'.answered r))
  | fault (f : Fault) : SameAnswer s s' (.fault f) (.fault f)

theorem SameAnswer.raise (s s' : State) (k : ErrorKind) : SameAnswer s s' (s.raise k) (s'.raise k) := by
  rw [State.raise_eq, State.raise_eq, ← s.answered_error (errorCode_range k), ← s'.answered_error (errorCode_range k)]
  exact .answer _

theorem SameAnswer.respond (s : State) (e : BitVec 12) (rs : List Response) (v : Nat) :
    SameAnswer s (s.withErr e rs) (s.respond v) ((s.withErr e rs).respond v) := by
  rw [State.respond_eq, State.respond_eq, ← State.answered_success, ← State.answered_success]
  exact .answer _

theorem csrOfNumber_eq_err {n : Fin 16} : csrOfNumber n = some .err ↔ n = 2 := by
  revert n
  decide

theorem execCsrr_same {c : Fin 16} {s : State} {e : BitVec 12} {rs : List Response} (h : c ≠ 2 ∨ e = s.err) :
    SameAnswer s (s.withErr e rs) (execCsrr c s) (execCsrr c (s.withErr e rs)) := by
  unfold execCsrr
  cases hc : csrOfNumber c with
  | none => exact .raise ..
  | some g =>
    have hg : g ≠ .err ∨ e = s.err := h.imp_left fun hne hg => hne (csrOfNumber_eq_err.mp (hg ▸ hc))
    simp only [State.csrValue_withErr s rs hg]
    cases s.csrValue g with
    | ok v => exact .respond ..
    | error f => exact .fault f

theorem execRdword_same (b : Bank) (a : Nat) (s : State) (e : BitVec 12) (rs : List Response) :
    SameAnswer s (s.withErr e rs) (execRdword b a s) (execRdword b a (s.withErr e rs)) := by
  unfold execRdword
  simp only [State.bank_withErr, State.word?_withErr]
  split
  · exact .raise ..
  · cases s.word? b a with
    | none => exact .fault _
    | some word => exact .respond ..

theorem execUnpack_same (b : Bank) (i : Nat) (s : State) (e : BitVec 12) (rs : List Response) :
    SameAnswer s (s.withErr e rs) (execUnpack b i s) (execUnpack b i (s.withErr e rs)) := by
  unfold execUnpack
  simp only [State.bank_withErr, State.element_withErr]
  split
  · split
    · exact .raise ..
    · cases s.element b i with
      | ok v => exact .respond ..
      | error f => exact .fault f
  · exact .raise ..

theorem execGet_same (k : Nat) (s : State) (e : BitVec 12) (rs : List Response) :
    SameAnswer s (s.withErr e rs) (execGet k s) (execGet k (s.withErr e rs)) := by
  unfold execGet
  simp only [State.key_withErr, State.val_withErr, State.element_withErr]
  split
  · split
    · exact .raise ..
    · cases s.element .key k with
      | error f => exact .fault f
      | ok idx =>
        dsimp only
        split
        · exact .raise ..
        · cases s.element .val idx with
          | error f => exact .fault f
          | ok v => exact .respond ..
  · exact .raise ..

/-- A reading command answers the same whatever `ERR` holds and the host has received, `CSRR ERR` apart. -/
theorem exec_reads_same {i : Instr} (hr : readsOnly i = true) {s : State} {e : BitVec 12} (rs : List Response)
    (h : i ≠ .csrr 2 ∨ e = s.err) : SameAnswer s (s.withErr e rs) (exec i s) (exec i (s.withErr e rs)) := by
  cases i with
  | nop => exact .respond ..
  | csrr c => exact execCsrr_same (h.imp_left fun hne hc => hne (hc ▸ rfl))
  | rdword b a => exact execRdword_same b a s e rs
  | unpack b j => exact execUnpack_same b j s e rs
  | get k => exact execGet_same k s e rs
  | csrw | pkbegin | pkpush | pkend | ldword | sealBank | rst => cases hr

theorem SameAnswer.next {s s' : State} {o o' : Host.Outcome State Fault Refusal} (h : SameAnswer s s' o o')
    {r : Response} (ho : o = .next (s.answered r)) : o' = .next (s'.answered r) := by
  cases h with
  | answer r' =>
    obtain ⟨rfl, -⟩ := List.cons.inj (congrArg State.responses (Host.Outcome.next.inj ho))
    rfl
  | fault f => cases ho

/-- The answer a reading command has in one state it has in every state that differs in `ERR` and the responses only. -/
theorem exec_withErr {i : Instr} (hr : readsOnly i = true) {s : State} {r : Response}
    (h : exec i s = .next (s.answered r)) {e : BitVec 12} (rs : List Response) (herr : i ≠ .csrr 2 ∨ e = s.err) :
    exec i (s.withErr e rs) = .next ((s.withErr e rs).answered r) :=
  (exec_reads_same hr rs herr).next h

/-- The response of command `i` from `s`, where it answers. -/
def State.answerTo (s : State) (i : Instr) : Response :=
  match exec i s with
  | .next t => t.responses.headD ⟨0#8, 0⟩
  | .fault _ => ⟨0#8, 0⟩
  | .refused _ => ⟨0#8, 0⟩

theorem State.answerTo_eq {s : State} {i : Instr} {r : Response} (h : exec i s = .next (s.answered r)) :
    s.answerTo i = r := by
  simp [State.answerTo, h, State.answered]

/-- A reading command that answers does nothing else but to set the bit of an error. -/
theorem exec_reads_answered {i : Instr} {s t : State} (hr : readsOnly i = true) (h : exec i s = .next t) :
    t = s.answered (s.answerTo i) := by
  obtain ⟨r, rfl⟩ : ∃ r, t = s.answered r := by
    obtain ⟨d, rfl⟩ | ⟨n, code, rfl⟩ := exec_reads hr h
    · exact ⟨_, (s.answered_success d).symm⟩
    · exact ⟨_, (s.answered_error code).symm⟩
  rw [State.answerTo_eq h]

/-! ### A run of reading commands -/

/-- The bits of `ERR` the responses of a run set. -/
def errBitsOf (rs : List Response) : BitVec 12 := rs.foldr (fun r m => r.errBits ||| m) 0#12

theorem getLsbD_errBitsOf (rs : List Response) (n : Nat) :
    (errBitsOf rs).getLsbD n = rs.any fun r => r.errBits.getLsbD n := by
  induction rs with
  | nil => simp [errBitsOf]
  | cons r rs ih => simpa [errBitsOf] using congrArg (r.errBits.getLsbD n || ·) ih

/-- The bits a run sets depend neither on the order of its responses nor on how often each occurs. -/
theorem errBitsOf_congr {rs rs' : List Response} (h : ∀ r, r ∈ rs' ↔ r ∈ rs) : errBitsOf rs' = errBitsOf rs := by
  refine BitVec.eq_of_getLsbD_eq fun n _ => ?_
  rw [getLsbD_errBitsOf, getLsbD_errBitsOf, Bool.eq_iff_iff, List.any_eq_true, List.any_eq_true]
  simp only [h]

/-- The state after reading commands that are answered with `rs`, first response first. -/
def State.answeredAll (s : State) (rs : List Response) : State :=
  s.withErr (s.err ||| errBitsOf rs) (rs.reverse ++ s.responses)

@[simp] theorem State.err_answeredAll (s : State) (rs : List Response) :
    (s.answeredAll rs).err = s.err ||| errBitsOf rs := rfl
@[simp] theorem State.responses_answeredAll (s : State) (rs : List Response) :
    (s.answeredAll rs).responses = rs.reverse ++ s.responses := rfl

@[simp] theorem State.answeredAll_nil (s : State) : s.answeredAll [] = s := by
  simp [State.answeredAll, errBitsOf, State.withErr]

theorem State.answeredAll_cons (s : State) (r : Response) (rs : List Response) :
    s.answeredAll (r :: rs) = (s.answered r).answeredAll rs := by
  simp [State.answeredAll, State.answered, State.withErr, errBitsOf, BitVec.or_assoc]

/-- What sets no new bit has no part that sets one: an answer after which `ERR` ends as it began left `ERR` as it was. -/
theorem State.err_answered_of_answeredAll {s : State} {r : Response} {rs : List Response}
    (h : ((s.answered r).answeredAll rs).err = s.err) : (s.answered r).err = s.err := by
  have hbits : s.err ||| r.errBits ||| errBitsOf rs = s.err := h
  calc s.err ||| r.errBits = s.err ||| r.errBits ||| errBitsOf rs ||| r.errBits := by rw [hbits]
    _ = s.err ||| (r.errBits ||| r.errBits) ||| errBitsOf rs := by ac_rfl
    _ = s.err := by rw [BitVec.or_self, hbits]

/-- A run of reading commands leaves all but `ERR` and the responses as they are. -/
theorem runAll_reads_answeredAll {cmds : List Instr} (reads : ∀ i ∈ cmds, readsOnly i = true) {s t : State}
    (h : runAll cmds s = .next t) : ∃ rs, t = s.answeredAll rs := by
  induction cmds generalizing s with
  | nil => cases h; exact ⟨[], by simp⟩
  | cons i rest ih =>
    obtain ⟨hi, hrest⟩ := List.forall_mem_cons.mp reads
    obtain ⟨u, hu, ht⟩ := runAll_cons_next.mp h
    obtain ⟨rs, rfl⟩ := ih hrest ht
    exact ⟨s.answerTo i :: rs, by rw [State.answeredAll_cons, ← exec_reads_answered hi hu]⟩

/-- Each command of a run of reading commands answers as the first state alone would, if none is a `CSRR ERR` that could
see a new bit of `ERR`. -/
theorem runAll_reads {cmds : List Instr} (reads : ∀ i ∈ cmds, readsOnly i = true) {s t : State}
    (h : runAll cmds s = .next t) (herr : (∀ i ∈ cmds, i ≠ .csrr 2) ∨ t.err = s.err) :
    (∀ i ∈ cmds, exec i s = .next (s.answered (s.answerTo i))) ∧ t = s.answeredAll (cmds.map s.answerTo) := by
  induction cmds generalizing s with
  | nil => cases h; simp
  | cons i rest ih =>
    obtain ⟨hi, hrest⟩ := List.forall_mem_cons.mp reads
    obtain ⟨u, hu, ht⟩ := runAll_cons_next.mp h
    obtain rfl := exec_reads_answered hi hu
    have hkeep : t.err = s.err → s.err = (s.answered (s.answerTo i)).err := by
      obtain ⟨rs, rfl⟩ := runAll_reads_answeredAll hrest ht
      exact fun he => (State.err_answered_of_answeredAll he).symm
    obtain ⟨hexec, rfl⟩ := ih hrest ht <| herr.imp (fun hne j hj => hne j (List.mem_cons_of_mem i hj))
      fun he => he.trans (hkeep he)
    have hback : ∀ j ∈ rest, exec j s = .next (s.answered ((s.answered (s.answerTo i)).answerTo j)) := fun j hj =>
      exec_withErr (hrest j hj) (hexec j hj) s.responses (herr.imp (· j (List.mem_cons_of_mem i hj)) hkeep)
    have hsame : rest.map s.answerTo = rest.map (s.answered (s.answerTo i)).answerTo :=
      List.map_congr_left fun j hj => State.answerTo_eq (hback j hj)
    refine ⟨List.forall_mem_cons.mpr ⟨hu, fun j hj => ?_⟩, ?_⟩
    · rw [State.answerTo_eq (hback j hj)]
      exact hback j hj
    · rw [List.map_cons, State.answeredAll_cons, hsame]

/-- Reading commands that each answer from `s` answer the same in a run from `s`, if none is a `CSRR ERR` that could see
a new bit of `ERR`. -/
theorem runAll_of_exec_reads {cmds : List Instr} (reads : ∀ i ∈ cmds, readsOnly i = true) {s : State}
    {a : Instr → Response} (hexec : ∀ i ∈ cmds, exec i s = .next (s.answered (a i)))
    (herr : (∀ i ∈ cmds, i ≠ .csrr 2) ∨ (s.answeredAll (cmds.map a)).err = s.err) :
    runAll cmds s = .next (s.answeredAll (cmds.map a)) := by
  induction cmds generalizing s with
  | nil => simp
  | cons i rest ih =>
    obtain ⟨-, hrest⟩ := List.forall_mem_cons.mp reads
    obtain ⟨hi, hexec⟩ := List.forall_mem_cons.mp hexec
    rw [List.map_cons, State.answeredAll_cons] at *
    have hkeep := fun he => State.err_answered_of_answeredAll (s := s) (r := a i) (rs := rest.map a) he
    refine runAll_cons_next.mpr ⟨_, hi, ih hrest (fun j hj => ?_) ?_⟩
    · exact exec_withErr (hrest j hj) (hexec j hj) _ (herr.imp (· j (List.mem_cons_of_mem i hj)) hkeep)
    · exact herr.imp (fun hne j hj => hne j (List.mem_cons_of_mem i hj)) fun he => he.trans (hkeep he).symm

/-- Any run of the same reading commands answers and leaves the same `ERR`. -/
theorem runAll_reads_reordered {cmds other : List Instr} (reads : ∀ i ∈ cmds, readsOnly i = true) {s t : State}
    (h : runAll cmds s = .next t) (herr : (∀ i ∈ cmds, i ≠ .csrr 2) ∨ t.err = s.err)
    (same : ∀ i, i ∈ other ↔ i ∈ cmds) :
    runAll other s = .next (s.answeredAll (other.map s.answerTo)) ∧
      (s.answeredAll (other.map s.answerTo)).err = t.err := by
  obtain ⟨hexec, rfl⟩ := runAll_reads reads h herr
  have hbits : (s.answeredAll (other.map s.answerTo)).err = (s.answeredAll (cmds.map s.answerTo)).err := by
    rw [State.err_answeredAll, State.err_answeredAll, errBitsOf_congr]
    simp only [List.mem_map, same, implies_true]
  refine ⟨runAll_of_exec_reads (fun i hi => reads i ((same i).mp hi)) (fun i hi => hexec i ((same i).mp hi)) ?_, hbits⟩
  exact herr.imp (fun hne i hi => hne i ((same i).mp hi)) hbits.trans

end Sys2Proof.Machine
end


section
/-! PROOF. The statements about the memory, its layout and the commands that only read it (20_memory.md). -/

namespace Sys2Proof.Proofs

open Sys2Proof.Machine

/-- Settles O14: each operation on a bank appends a word in address order, discards all of them, or leaves them. -/
theorem stepKeepsMemoryCanonical : Obligations.StepKeepsMemoryCanonical := by
  intro s t h ht
  obtain ⟨-, ⟨-, rfl⟩ | ⟨_, _, -, rfl⟩ | ⟨_, _, _, -, -, hexec⟩ | ⟨_, _, _, -, -, rfl⟩⟩ := step_next ht
  · exact h
  · exact State.memWf_clearAll _
  · exact exec_keeps_memWf (h.with_port _) hexec
  · exact (h.with_port _).failed 4

/-- Settles O47: bit by bit, a group being of whole bytes or the only one of its word. -/
theorem byteProcedureIsTheClosedForm : Obligations.ByteProcedureIsTheClosedForm := by
  intro b w e _ h8 h1 h2 he
  refine ⟨packWordByBytes_eq h8 h1 h2 he, fun j n hj hn => ?_, fun n hn => ?_⟩
  · have hlane : (j * w + n) / w = j := by
      rw [Nat.mul_comm, Nat.mul_add_div h1, Nat.div_eq_of_lt hn, Nat.add_zero]
    rw [testBit_packWord h1 he, hlane, Nat.mul_add_mod', Nat.mod_eq_of_lt hn]
    simp [hj]
  · have hlane : ¬ n / w < epw b w := Nat.not_lt.mpr ((Nat.le_div_iff_mul_le h1).mpr hn)
    rw [testBit_packWord h1 he, decide_eq_false hlane, Bool.false_and]

/-- Settles O33: a reading command's answer is a response and, on an error, the bit of its code. -/
theorem frameOfReadingCommands : Obligations.FrameOfReadingCommands := by
  intro i s t hr h
  obtain ⟨d, rfl⟩ | ⟨n, code, rfl⟩ := exec_reads hr h
  · exact ⟨rfl, fun _ _ => by simp [State.word?], fun _ _ _ => rfl⟩
  · refine ⟨rfl, fun _ _ => by simp [State.word?], fun r hresp hstatus => ?_⟩
    obtain ⟨rfl, -⟩ := List.cons.inj hresp
    exact absurd hstatus (beq_eq_false_iff_ne.mp (status_ne_success code))

/-- Settles O40: the two commands are a run, and their other order is a run of the same commands. -/
theorem readingCommandsCommute : Obligations.ReadingCommandsCommute := by
  intro i j s s1 s2 hi hj hs1 hs2 herr
  have reads : ∀ k ∈ [i, j], readsOnly k = true := by simp [hi, hj]
  have hrun : runAll [i, j] s = .next s2 := runAll_cons_next.mpr ⟨s1, hs1, runAll_cons_next.mpr ⟨s2, hs2, rfl⟩⟩
  have herr : (∀ k ∈ [i, j], k ≠ .csrr 2) ∨ s2.err = s.err := by simpa using herr
  obtain ⟨-, rfl⟩ := runAll_reads reads hrun herr
  obtain ⟨hswap, hbits⟩ := runAll_reads_reordered (other := [j, i]) reads hrun herr (by simp [or_comm])
  obtain ⟨t1, ht1, hlast⟩ := runAll_cons_next.mp hswap
  obtain ⟨t2, ht2, hnil⟩ := runAll_cons_next.mp hlast
  cases hnil
  exact ⟨t1, _, s.answerTo i, s.answerTo j, ht1, ht2, rfl, rfl, congrArg (s.withErr · _) hbits⟩

/-- Settles O41: each command answers as from the first state, and the bits of `ERR` set are those of the set of
responses. -/
theorem readingRunsMayBeReorderedAndReplicated : Obligations.ReadingRunsMayBeReorderedAndReplicated := by
  intro cmds s t reads h herr
  obtain ⟨hexec, rfl⟩ := runAll_reads reads h herr
  refine ⟨rfl, ⟨cmds.map s.answerTo, rfl, ?_⟩, fun other same => ⟨_, runAll_reads_reordered reads h herr same⟩⟩
  rw [List.forall₂_map_right_iff, List.forall₂_same]
  exact fun i hi => ⟨_, hexec i hi, rfl⟩

/-- Settles O44: the least group by coprimality, the table by the residue of the width. -/
theorem naturalGroupIsTheLeast : Obligations.NaturalGroupIsTheLeast := by
  intro w _
  have table : ∀ r < 8, (r = 0 → naturalGroup r = 1) ∧ (r = 4 → naturalGroup r = 2) ∧
      (r % 4 = 2 → naturalGroup r = 4) ∧ (r % 2 = 1 → naturalGroup r = 8) := by decide
  obtain ⟨r0, r4, r2, r1⟩ := table (w % 8) (Nat.mod_lt _ (by decide))
  rw [← naturalGroup_mod] at r0 r4 r2 r1
  exact ⟨rfl, naturalGroup_pos w, naturalGroup_mul_mod w, fun g => naturalGroup_le, r0, r4,
    fun h => r2 (by omega), fun h => r1 (by omega)⟩

/-- Settles O45: the groups of a word are whole groups of its raw elements. -/
theorem elementsPerWordBounds : Obligations.ElementsPerWordBounds := by
  intro b w _ h8 h1 h2
  have hgroups := groupsPerWord_eq h8 h1 h2
  have hepw : 0 < epw b w := epw_pos h8 h1 h2
  have hle : epw b w ≤ eRaw b w := by
    rw [epw, hgroups]
    exact Nat.mul_div_le _ _
  exact ⟨groupSize_pos h1 h2, groupSize_mul_le b w, Nat.pos_of_mul_pos_left hepw, hgroups, hepw, hle,
    Nat.dvd_mul_right _ _, epw_mul_le b w, fun h => epw_eq_eRaw h8 h1 h2 (groupSize_dvd_eRaw h8 h)⟩

/-- Settles O50: a set bit lies in a lane, and the element of the lane is not 0, so it is one of the array. -/
theorem paddingIsZero : Obligations.PaddingIsZero := by
  intro b w values ws q word n _ h8 h1 h2 hpack hword hbit
  obtain ⟨hfits, rfl⟩ := getElem?_of_pack h8 h1 h2 hpack hword
  rw [testBit_packWord h1 fun j _ => hfits j, Bool.and_eq_true, decide_eq_true_eq] at hbit
  obtain ⟨hlane, helement⟩ := hbit
  refine ⟨n / w, hlane, ?_, Nat.div_mul_le_self n w, ?_⟩
  · by_contra hout
    rw [elementsOfWord, List.getD_eq_default _ _ (Nat.le_of_not_lt hout), Nat.zero_testBit] at helement
    cases helement
  · exact Nat.lt_mul_of_div_lt (Nat.lt_succ_self _) h1

/-- Settles O7: the command's bits are taken from the port and decoded. -/
theorem stepRunsTheDecodedCommand : Obligations.StepRunsTheDecodedCommand := by
  intro s bits rest i legal hport hdecode
  rw [step, if_pos legal, State.takeEvent_cons hport]
  simp only [hdecode]

/-- Settles O46, by computing the rows. -/
theorem layoutTableOfTheSpec : Obligations.LayoutTableOfTheSpec := ⟨by decide, by decide⟩

end Sys2Proof.Proofs
end


section
/-! SUPPORT. The decoder against the opcode map: every byte is the op byte of a command or reserved, and decodes
accordingly; the fields of a command are read back from its bits (30_encoding.md rules R90, R93, R97, R98). -/

namespace Sys2Proof

open Machine

/-! ### Fields -/

theorem bitField_eq (v lo width : Nat) : bitField v lo width = v / 2 ^ lo % 2 ^ width := by
  rw [bitField, Nat.shiftRight_eq_div_pow]

theorem op_splitCommand (p : Params) (cmd : Nat) :
    (splitCommand p cmd).op = cmd / 2 ^ (p.wordBits + p.idxBits) % 256 := bitField_eq ..

theorem idx_splitCommand (p : Params) (cmd : Nat) :
    (splitCommand p cmd).idx = cmd / 2 ^ p.wordBits % 2 ^ p.idxBits := bitField_eq ..

theorem data_splitCommand (p : Params) (cmd : Nat) : (splitCommand p cmd).data = cmd % 2 ^ p.wordBits := rfl

theorem op_splitCommand_lt (p : Params) (cmd : Nat) : (splitCommand p cmd).op < 256 := Nat.mod_lt _ (by decide)

theorem fitsIdx_splitCommand (p : Params) (cmd : Nat) : p.FitsIdx (splitCommand p cmd).idx :=
  Nat.mod_lt _ (Nat.two_pow_pos _)

theorem fitsData_splitCommand (p : Params) (cmd : Nat) : p.FitsData (splitCommand p cmd).data :=
  Nat.mod_lt _ (Nat.two_pow_pos _)

/-- A command whose fields fit is read back from its bits. -/
theorem splitCommand_joinCommand {p : Params} {c : Command} (hop : c.op < 256) (hidx : p.FitsIdx c.idx)
    (hdata : p.FitsData c.data) : splitCommand p (joinCommand p c) = c := by
  have upper : joinCommand p c / 2 ^ p.wordBits = c.op * 2 ^ p.idxBits + c.idx := by
    rw [joinCommand, Nat.mul_comm, Nat.mul_add_div (Nat.two_pow_pos _), Nat.div_eq_of_lt hdata, Nat.add_zero]
  have op : (splitCommand p (joinCommand p c)).op = c.op := by
    rw [op_splitCommand, Nat.pow_add, ← Nat.div_div_eq_div_mul, upper, Nat.mul_comm,
      Nat.mul_add_div (Nat.two_pow_pos _), Nat.div_eq_of_lt hidx, Nat.add_zero, Nat.mod_eq_of_lt hop]
  have idx : (splitCommand p (joinCommand p c)).idx = c.idx := by
    rw [idx_splitCommand, upper, Nat.mul_add_mod', Nat.mod_eq_of_lt hidx]
  have data : (splitCommand p (joinCommand p c)).data = c.data := by
    rw [data_splitCommand, joinCommand, Nat.mul_add_mod', Nat.mod_eq_of_lt hdata]
  calc splitCommand p (joinCommand p c)
      = ⟨(splitCommand p (joinCommand p c)).op, (splitCommand p (joinCommand p c)).idx,
          (splitCommand p (joinCommand p c)).data⟩ := rfl
    _ = c := by rw [op, idx, data]

/-! ### Operands -/

/-- The command with its operands taken from the fields `idx` and `data`, as far as it reads them (rule R93). -/
def Instr.withOperands (idx data : Nat) : Instr → Instr
  | .nop => .nop
  | .csrr c => .csrr c
  | .csrw c _ => .csrw c data
  | .pkbegin b => .pkbegin b
  | .pkpush _ => .pkpush data
  | .pkend => .pkend
  | .ldword b _ => .ldword b data
  | .sealBank b => .sealBank b
  | .rdword b _ => .rdword b idx
  | .unpack b _ => .unpack b idx
  | .get _ => .get idx
  | .rst => .rst

theorem Instr.wellFormed_withOperands {p : Params} {idx data : Nat} (hidx : p.FitsIdx idx) (hdata : p.FitsData data)
    (i : Instr) : (i.withOperands idx data).WellFormed p := by
  cases i with
  | csrw | pkpush | ldword => exact decide_eq_true hdata
  | rdword | unpack | get => exact decide_eq_true hidx
  | nop | csrr | pkbegin | pkend | sealBank | rst => rfl

theorem withOperands_commandOf (i : Instr) : i.withOperands (commandOf i).idx (commandOf i).data = i := by
  cases i <;> rfl

theorem op_commandOf (i : Instr) : (commandOf i).op = opByte i := by cases i <;> rfl

/-- The fields of a well-formed command fit: an operand it reads by its well-formedness, a field it does not read as 0. -/
theorem Instr.WellFormed.commandOf_fits {p : Params} {i : Instr} (h : i.WellFormed p) :
    p.FitsIdx (commandOf i).idx ∧ p.FitsData (commandOf i).data := by
  cases i with
  | csrw | pkpush | ldword => exact ⟨Nat.two_pow_pos _, of_decide_eq_true h⟩
  | rdword | unpack | get => exact ⟨of_decide_eq_true h, Nat.two_pow_pos _⟩
  | nop | csrr | pkbegin | pkend | sealBank | rst => exact ⟨Nat.two_pow_pos _, Nat.two_pow_pos _⟩

/-! ### The op byte -/

theorem csrOfSel_val (c : Fin 16) : csrOfSel c.val = c := Fin.ext (Nat.mod_eq_of_lt c.isLt)

/-- The op byte of a command decodes to it, the operands it reads taken from the fields. -/
theorem decodeCommand_opByte (i : Instr) (idx data : Nat) :
    decodeCommand ⟨opByte i, idx, data⟩ = .instr (i.withOperands idx data) := by
  cases i with
  | csrr c =>
    have major : bitField (0x10 + c.val) 4 4 = 1 := by rw [bitField_eq]; omega
    have sel : bitField (0x10 + c.val) 0 4 = c.val := by rw [bitField_eq]; omega
    simp [decodeCommand, opByte, major, sel, csrOfSel_val, Instr.withOperands]
  | csrw c v =>
    have major : bitField (0x20 + c.val) 4 4 = 2 := by rw [bitField_eq]; omega
    have sel : bitField (0x20 + c.val) 0 4 = c.val := by rw [bitField_eq]; omega
    simp [decodeCommand, opByte, major, sel, csrOfSel_val, Instr.withOperands]
  | pkbegin b | ldword b | sealBank b | rdword b | unpack b =>
    cases b <;> simp [decodeCommand, opByte, bankNumber, bankOfSel, bitField, Instr.withOperands]
  | nop | pkpush | pkend | get | rst => simp [decodeCommand, opByte, bitField, Instr.withOperands]

/-- Operand fields that give the command of an op byte the same operands decode alike. -/
theorem decodeCommand_congr {i : Instr} {op idx data idx' data' : Nat} (hop : op = opByte i)
    (h : i.withOperands idx data = i.withOperands idx' data') :
    decodeCommand ⟨op, idx, data⟩ = decodeCommand ⟨op, idx', data'⟩ := by
  rw [hop, decodeCommand_opByte, decodeCommand_opByte, h]

/-- A reserved byte passes none of the twelve tests of the decoder. -/
theorem decodeCommand_reservedByte {op : Nat} (h : ReservedByte op) (idx data : Nat) :
    decodeCommand ⟨op, idx, data⟩ = .reservedOp op := by
  simp only [decodeCommand, bitField_eq]
  rw [if_neg, if_neg, if_neg, if_neg, if_neg, if_neg, if_neg, if_neg, if_neg, if_neg, if_neg, if_neg]
  all_goals omega

/-- The sixteen bytes of a command with a CSR operand. -/
theorem exists_csrNumber {op base : Nat} (h : base ≤ op ∧ op ≤ base + 15) : ∃ c : Fin 16, op = base + c.val :=
  ⟨⟨op - base, by omega⟩, (Nat.add_sub_cancel' h.1).symm⟩

/-- The two bytes of a command with a bank operand. -/
theorem exists_bankNumber {op base : Nat} (h : base ≤ op ∧ op ≤ base + 1) : ∃ b, op = base + bankNumber b := by
  obtain rfl | rfl : op = base ∨ op = base + 1 := by omega
  · exact ⟨.key, rfl⟩
  · exact ⟨.val, rfl⟩

/-- A byte that is not reserved is the op byte of a command. -/
theorem exists_opByte {op : Nat} (hop : op < 256) (h : ¬ ReservedByte op) : ∃ i, op = opByte i := by
  have table : op = 0x00 ∨ (0x10 ≤ op ∧ op ≤ 0x1F) ∨ (0x20 ≤ op ∧ op ≤ 0x2F) ∨ (0x30 ≤ op ∧ op ≤ 0x31) ∨ op = 0x40 ∨
      op = 0x50 ∨ (0x60 ≤ op ∧ op ≤ 0x61) ∨ (0x70 ≤ op ∧ op ≤ 0x71) ∨ (0x80 ≤ op ∧ op ≤ 0x81) ∨
      (0x90 ≤ op ∧ op ≤ 0x91) ∨ op = 0xA0 ∨ op = 0xF0 := by
    by_contra hn
    omega
  obtain rfl | csrr | csrw | pkbegin | rfl | rfl | ldword | sealBank | rdword | unpack | rfl | rfl := table
  · exact ⟨.nop, rfl⟩
  · exact (exists_csrNumber csrr).imp' .csrr fun _ => id
  · exact (exists_csrNumber csrw).imp' (.csrw · 0) fun _ => id
  · exact (exists_bankNumber pkbegin).imp' .pkbegin fun _ => id
  · exact ⟨.pkpush 0, rfl⟩
  · exact ⟨.pkend, rfl⟩
  · exact (exists_bankNumber ldword).imp' (.ldword · 0) fun _ => id
  · exact (exists_bankNumber sealBank).imp' .sealBank fun _ => id
  · exact (exists_bankNumber rdword).imp' (.rdword · 0) fun _ => id
  · exact (exists_bankNumber unpack).imp' (.unpack · 0) fun _ => id
  · exact ⟨.get 0, rfl⟩
  · exact ⟨.rst, rfl⟩

/-- Every command given as fields has a reserved op byte or decodes to a command whose operands are its fields. -/
theorem decodeCommand_cases {c : Command} (hop : c.op < 256) :
    (ReservedByte c.op ∧ decodeCommand c = .reservedOp c.op) ∨
      ∃ i : Instr, decodeCommand c = .instr (i.withOperands c.idx c.data) := by
  obtain ⟨op, idx, data⟩ := c
  by_cases h : ReservedByte op
  · exact .inl ⟨h, decodeCommand_reservedByte h idx data⟩
  · obtain ⟨i, rfl⟩ := exists_opByte hop h
    exact .inr ⟨i, decodeCommand_opByte i idx data⟩

theorem decodeCommand_commandOf (i : Instr) : decodeCommand (commandOf i) = .instr i := by
  have fields : commandOf i = ⟨opByte i, (commandOf i).idx, (commandOf i).data⟩ := by rw [← op_commandOf]
  rw [fields, decodeCommand_opByte, withOperands_commandOf]

end Sys2Proof
end

section
/-! SUPPORT. The one response of a command, and the value a `CSRR` answers (30_encoding.md rules R91, R104; 44_system.md
rule R166). -/

namespace Sys2Proof.Machine

/-! ### The response of a command -/

/-- `t` is `s` after a command that delivered one response: a success with data of `B` bits, or an error with a code of
1 to 11 and data 0. -/
inductive Delivers (s : State) : State → Prop
  | ok {u : State} {d : Nat} (before : u.responses = s.responses) (fits : d < 2 ^ s.params.wordBits) :
      Delivers s (u.ok d)
  | failed {u : State} {n : Nat} (before : u.responses = s.responses) (code : 1 ≤ n ∧ n ≤ 11) :
      Delivers s (u.failed n)

/-- Every success answers 0 or a value cut to the data field. -/
theorem exec_delivers {i : Instr} {s t : State} (h : exec i s = .next t) : Delivers s t := by
  have zero : 0 < 2 ^ s.params.wordBits := Nat.two_pow_pos _
  cases i with
  | nop => exact execNop_next h ▸ .ok rfl zero
  | rst => exact execRst_next h ▸ .ok rfl zero
  | csrr c =>
    obtain ⟨-, rfl⟩ | ⟨_, _, -, -, rfl⟩ := execCsrr_next h
    · exact .failed rfl (by decide)
    · exact .ok rfl (zext_lt _ _)
  | csrw c v =>
    obtain ⟨-, rfl⟩ | ⟨g, -, ⟨-, rfl⟩ | ⟨-, -, rfl⟩ | ⟨-, -, -, rfl⟩ | ⟨-, -, -, rfl⟩⟩ := execCsrw_next h
    any_goals exact .failed rfl (by decide)
    exact .ok (s.responses_writeTarget g v) zero
  | pkbegin b =>
    obtain ⟨-, rfl⟩ | ⟨-, -, rfl⟩ | ⟨-, -, -, rfl⟩ | ⟨-, -, -, rfl⟩ := execPkbegin_next h
    any_goals exact .failed rfl (by decide)
    exact .ok (s.responses_openPacker b) zero
  | pkpush v =>
    obtain ⟨-, rfl⟩ | ⟨-, w, -, ⟨-, rfl⟩ | ⟨-, -, rfl⟩ | ⟨-, -, -, u, flush, rfl⟩ | ⟨-, -, -, rfl⟩⟩ := execPkpush_next h
    · exact .failed rfl (by decide)
    · exact .failed s.responses_abortConstruction (by decide)
    · exact .failed s.responses_abortConstruction (by decide)
    · obtain ⟨-, -, rfl⟩ := State.flushWord_ok flush
      exact .ok (State.responses_flushed _) zero
    · exact .ok rfl zero
  | pkend =>
    obtain ⟨-, rfl⟩ | ⟨-, -, rfl⟩ | ⟨-, -, u, flush, rfl⟩ := execPkend_next h
    · exact .failed rfl (by decide)
    · exact .ok s.responses_sealConstruction zero
    · obtain ⟨-, -, rfl⟩ := State.flushWord_ok flush
      exact .ok (by simp) zero
  | ldword b v =>
    obtain ⟨-, rfl⟩ | ⟨-, -, rfl⟩ | ⟨-, -, -, rfl⟩ | ⟨-, -, -, -, rfl⟩ := execLdword_next h
    any_goals exact .failed rfl (by decide)
    exact .ok (s.responses_setBank b _) zero
  | sealBank b =>
    obtain ⟨-, rfl⟩ | ⟨-, -, rfl⟩ | ⟨-, -, -, rfl⟩ | ⟨-, -, -, -, ⟨-, rfl⟩ | ⟨-, rfl⟩⟩ := execSealBank_next h
    any_goals exact .failed rfl (by decide)
    exact .ok (s.responses_setBank b _) zero
  | rdword b a =>
    obtain ⟨-, rfl⟩ | ⟨-, _, -, rfl⟩ := execRdword_next h
    · exact .failed rfl (by decide)
    · exact .ok rfl (zext_lt _ _)
  | unpack b j =>
    obtain ⟨-, rfl⟩ | ⟨-, -, rfl⟩ | ⟨-, -, _, -, rfl⟩ := execUnpack_next h
    · exact .failed rfl (by decide)
    · exact .failed rfl (by decide)
    · exact .ok rfl (zext_lt _ _)
  | get k =>
    obtain ⟨-, rfl⟩ | ⟨-, -, ⟨-, rfl⟩ | ⟨-, _, -, ⟨-, rfl⟩ | ⟨-, _, -, rfl⟩⟩⟩ := execGet_next h
    any_goals exact .failed rfl (by decide)
    exact .ok rfl (zext_lt _ _)

/-! ### The value of a control register -/

theorem statusView_eq (s : State) :
    statusView s = (if s.key.isSealed then 1 else 0) + (if s.val.isSealed then 2 else 0) +
      (if s.pkActive then 4 else 0) + (if s.pkBank = .val then 8 else 0) := by
  unfold statusView
  cases s.key.isSealed <;> cases s.val.isSealed <;> cases s.pkActive <;> cases s.pkBank <;> rfl

theorem State.epwView_of_le {s : State} {b : Bank} (h : (s.bank b).w ≤ s.params.wordBits) :
    s.epwView b = .ok (if (s.bank b).w = 0 then 0 else epw s.params.wordBits (s.bank b).w) := by
  unfold State.epwView
  split
  · rfl
  · next hw => rw [State.width?_of_range (Nat.pos_of_ne_zero hw) h]

/-- The register table of 44_system.md rule R166 lists the value `CSRR` reads. -/
theorem csrValue_of_registerTable {s : State} {c : Fin 16} {v : Nat} (hkey : s.key.w ≤ s.params.wordBits)
    (hval : s.val.w ≤ s.params.wordBits) (h : (c, v) ∈ s.registerTable) :
    ∃ r, csrOfNumber c = some r ∧ s.csrValue r = .ok v := by
  simp only [State.registerTable, List.mem_cons, Prod.mk.injEq, List.not_mem_nil, or_false] at h
  obtain ⟨rfl, rfl⟩ | ⟨rfl, rfl⟩ | ⟨rfl, rfl⟩ | ⟨rfl, rfl⟩ | ⟨rfl, rfl⟩ | ⟨rfl, rfl⟩ | ⟨rfl, rfl⟩ | ⟨rfl, rfl⟩ |
    ⟨rfl, rfl⟩ | ⟨rfl, rfl⟩ | ⟨rfl, rfl⟩ | ⟨rfl, rfl⟩ := h
  · exact ⟨.wordbits, rfl, rfl⟩
  · exact ⟨.status, rfl, congrArg _ (statusView_eq s)⟩
  · exact ⟨.err, rfl, rfl⟩
  · exact ⟨.wKey, rfl, rfl⟩
  · exact ⟨.wVal, rfl, rfl⟩
  · exact ⟨.lenKey, rfl, rfl⟩
  · exact ⟨.lenVal, rfl, rfl⟩
  · exact ⟨.nwKey, rfl, rfl⟩
  · exact ⟨.nwVal, rfl, rfl⟩
  · exact ⟨.pkCount, rfl, rfl⟩
  · exact ⟨.epwKey, rfl, State.epwView_of_le (b := .key) hkey⟩
  · exact ⟨.epwVal, rfl, State.epwView_of_le (b := .val) hval⟩

theorem exec_csrr_of_csrValue {s : State} {c : Fin 16} {r : Csr} {v : Nat} (hc : csrOfNumber c = some r)
    (hv : s.csrValue r = .ok v) : exec (.csrr c) s = .next (s.ok (zext s.params.wordBits v)) := by
  simp [exec, execCsrr, hc, hv, State.respond_eq]

end Sys2Proof.Machine
end

section
/-! PROOF. The statements about the encoding, the decoder and the responses (30_encoding.md). -/

namespace Sys2Proof.Proofs

open Sys2Proof.Machine

/-- Settles O1: the fields of a well-formed command fit, so they are read back, and its op byte decodes to it. -/
theorem decodeOfEncodeIsTheCommand : Obligations.DecodeOfEncodeIsTheCommand := by
  intro p i h
  obtain ⟨hidx, hdata⟩ := h.commandOf_fits
  have hop : (commandOf i).op < 256 := op_commandOf i ▸ Laws.opByte_lt i
  rw [decode, encode, splitCommand_joinCommand hop hidx hdata, decodeCommand_commandOf]

/-- Settles O2: the operands decoded are fields of the bits presented. -/
theorem decodedOperandsFitTheirFields : Obligations.DecodedOperandsFitTheirFields := by
  intro p bits i h
  obtain ⟨-, reserved⟩ | ⟨j, decoded⟩ := decodeCommand_cases (op_splitCommand_lt p bits)
  · cases reserved.symm.trans h
  · cases decoded.symm.trans h
    exact j.wellFormed_withOperands (fitsIdx_splitCommand p bits) (fitsData_splitCommand p bits)

/-- Settles O3: each row of the table is an op byte with the operands it reads. -/
theorem decoderFollowsTheOpcodeMap : Obligations.DecoderFollowsTheOpcodeMap := by
  intro idx data
  have row := fun i => decodeCommand_opByte i idx data
  refine ⟨row .nop, fun c => ⟨row (.csrr c), row (.csrw c 0)⟩, fun b n hb => ?_, row (.pkpush 0), row .pkend,
    row (.get 0), row .rst, fun op h => decodeCommand_reservedByte h idx data⟩
  obtain rfl : n = bankNumber b := by obtain ⟨rfl, rfl⟩ | ⟨rfl, rfl⟩ := hb <;> rfl
  exact ⟨row (.pkbegin b), row (.ldword b 0), row (.sealBank b), row (.rdword b 0), row (.unpack b 0)⟩

/-- Settles O4: the step decodes the byte as reserved, and the bytes are counted by evaluation. -/
theorem reservedOpBytesRaiseIllegalCommand : Obligations.ReservedOpBytesRaiseIllegalCommand := by
  refine ⟨fun s bits rest legal hport h => ?_, fun c hop h => ?_, rfl, rfl⟩
  · rw [← op_splitCommand] at h
    have reserved : decode s.params bits = .reservedOp _ := decodeCommand_reservedByte h _ _
    rw [step, if_pos legal, State.takeEvent_cons hport]
    simp only [reserved]
    exact State.raise_eq _ _
  · obtain ⟨hr, -⟩ | ⟨i, decoded⟩ := decodeCommand_cases hop
    · exact absurd hr h
    · exact ⟨_, decoded⟩

/-- Settles O5: each byte listed is the op byte of a command that takes no operand from the fields left open. -/
theorem unreadFieldsAreIgnored : Obligations.UnreadFieldsAreIgnored := by
  intro op idx data idx' data'
  simp only [List.mem_cons, List.not_mem_nil, or_false]
  refine ⟨?_, ?_, ?_⟩
  · rintro ((rfl | rfl | rfl | rfl | rfl | rfl | rfl) | range)
    · exact decodeCommand_congr (i := .nop) rfl rfl
    · exact decodeCommand_congr (i := .pkend) rfl rfl
    · exact decodeCommand_congr (i := .rst) rfl rfl
    · exact decodeCommand_congr (i := .pkbegin .key) rfl rfl
    · exact decodeCommand_congr (i := .pkbegin .val) rfl rfl
    · exact decodeCommand_congr (i := .sealBank .key) rfl rfl
    · exact decodeCommand_congr (i := .sealBank .val) rfl rfl
    · obtain ⟨c, rfl⟩ := exists_csrNumber range
      exact decodeCommand_congr (i := .csrr c) rfl rfl
  · rintro ((rfl | rfl | rfl) | range)
    · exact decodeCommand_congr (i := .pkpush 0) rfl rfl
    · exact decodeCommand_congr (i := .ldword .key 0) rfl rfl
    · exact decodeCommand_congr (i := .ldword .val 0) rfl rfl
    · obtain ⟨c, rfl⟩ := exists_csrNumber range
      exact decodeCommand_congr (i := .csrw c 0) rfl rfl
  · rintro (rfl | rfl | rfl | rfl | rfl)
    · exact decodeCommand_congr (i := .rdword .key 0) rfl rfl
    · exact decodeCommand_congr (i := .rdword .val 0) rfl rfl
    · exact decodeCommand_congr (i := .unpack .key 0) rfl rfl
    · exact decodeCommand_congr (i := .unpack .val 0) rfl rfl
    · exact decodeCommand_congr (i := .get 0) rfl rfl

/-- Settles O17, by the two forms of a response. -/
theorem everyResponseIsWellFormed : Obligations.EveryResponseIsWellFormed := by
  refine ⟨fun i s t h => ?_, fun _ s => s.raise_eq .illegalCommand⟩
  obtain ⟨before, fits⟩ | @⟨u, n, before, code⟩ := exec_delivers h
  · exact ⟨_, by rw [State.responses_ok, before], Nat.zero_le _, fits, fun herr => absurd rfl herr⟩
  · refine ⟨_, by rw [State.responses_failed, before], ?_, Nat.two_pow_pos _, fun _ => rfl⟩
    rw [toNat_status code]
    exact code.2

/-- Settles O21: the response holds the value cut to the data field, whatever the free value is. -/
theorem csrrOfAWideValueStillAnswers : Obligations.CsrrOfAWideValueStillAnswers := by
  intro s c v hkey hval h _
  obtain ⟨r, hc, hv⟩ := csrValue_of_registerTable hkey hval h
  exact ⟨_, zext_lt _ v, exec_csrr_of_csrValue hc hv⟩

end Sys2Proof.Proofs
end

section
/-! SUPPORT. What the packer commands do, case by case from the checks they pass (41_packer.md rules R111 to R113). -/

namespace Sys2Proof.Machine

/-! ### `PKBEGIN` (rule R111) -/

theorem exec_pkbegin_of_active {s : State} (active : s.pkActive = true) (b : Bank) :
    exec (.pkbegin b) s = .next (s.failed 7) := if_pos active

/-- With no construction open the outcome rests on the bank alone. -/
theorem exec_pkbegin_of_idle {s : State} (idle : s.pkActive = false) (b : Bank) :
    exec (.pkbegin b) s =
      if (s.bank b).isSealed then .next (s.failed 5)
      else if (s.bank b).w = 0 then .next (s.failed 8)
      else .next ((s.openPacker b).ok 0) := by
  rw [exec, execPkbegin, idle, if_neg Bool.false_ne_true, State.respond_zero]
  rfl

theorem exec_pkbegin_of_opened {s : State} (idle : s.pkActive = false) {b : Bank} (opened : (s.bank b).isSealed = false)
    (configured : (s.bank b).w ≠ 0) : exec (.pkbegin b) s = .next ((s.openPacker b).ok 0) := by
  rw [exec_pkbegin_of_idle idle, opened, if_neg Bool.false_ne_true, if_neg configured]

/-! ### The staging word -/

theorem State.flushWord_of_room {s : State} (room : (s.bank s.pkBank).nw < s.cap s.pkBank)
    (fits : s.acc < 2 ^ s.params.wordBits) : s.flushWord = .ok s.flushed :=
  State.flushWord_ok_iff.mpr ⟨room, fits, rfl⟩

/-- A staging word that holds elements has a word of the bank to go to (10_state.md rule R41 (c)). -/
theorem State.Inv.flushWord {s : State} (h : s.Inv) (active : s.pkActive = true) (staged : 0 < s.cnt) :
    s.flushWord = .ok s.flushed :=
  State.flushWord_of_room ((h.filling active).room staged) (h.acc_lt active)

/-- So has a staging word that an element completes. -/
theorem State.Inv.flushWord_placeElement {s : State} (h : s.Inv) (active : s.pkActive = true) {v : Nat}
    (fits : v < 2 ^ (s.bank s.pkBank).w) (room : (s.bank s.pkBank).nw ≠ s.cap s.pkBank)
    (full : s.cnt + 1 = epw s.params.wordBits (s.bank s.pkBank).w) :
    (s.placeElement (s.bank s.pkBank).w v).flushWord = .ok (s.placeElement (s.bank s.pkBank).w v).flushed := by
  refine State.flushWord_of_room ?_ ?_
  · simpa [State.cap] using Nat.lt_of_le_of_ne (h.bank s.pkBank).nw_le room
  · refine (acc_placeElement_lt (h.filling active).acc_lt fits).trans_le (Nat.pow_le_pow_right (by decide) ?_)
    rw [full]
    exact epw_mul_le _ _

/-- In a bank of the invariant a word is appended after the words listed. -/
theorem BankState.Inv.appended_eq {p : Params} {cap : Nat} {x : BankState} (h : x.Inv p cap) (v : Nat) :
    x.appended v = { x with nw := x.nw + 1, mem := x.mem ++ [(x.nw, v)] } := by
  rw [BankState.appended, Memory.write_append _ _ _ (Memory.addr_lt_of_range h.addresses)]

/-- `PKEND` with a word to flush changes the bank once. -/
theorem State.sealConstruction_flushed (s : State) :
    s.flushed.sealConstruction = (s.setBank s.pkBank
      { (s.bank s.pkBank).appended s.acc with len := s.pkCount, isSealed := true }).clearPacker := by
  obtain ⟨_, _, _, _, _, _, pkBank, _, _, _, _⟩ := s
  cases pkBank <;> rfl

@[simp] theorem State.bank_sealConstruction_flushed_same (s : State) :
    s.flushed.sealConstruction.bank s.pkBank =
      { (s.bank s.pkBank).appended s.acc with len := s.pkCount, isSealed := true } := by
  simp [State.sealConstruction_flushed]

/-! ### `PKPUSH` (rule R112) -/

theorem exec_pkpush_of_idle {s : State} (idle : s.pkActive = false) (v : Nat) :
    exec (.pkpush v) s = .next (s.failed 7) := if_neg (by simp [idle])

/-- With a construction open the value is checked against the width and the bank against its capacity. -/
theorem exec_pkpush_of_active {s : State} (h : s.Inv) (active : s.pkActive = true) (v : Nat) :
    exec (.pkpush v) s =
      if v ≥ 2 ^ (s.bank s.pkBank).w then .next (s.abortConstruction.failed 1)
      else if (s.bank s.pkBank).nw = s.cap s.pkBank then .next (s.abortConstruction.failed 9)
      else if s.cnt + 1 = epw s.params.wordBits (s.bank s.pkBank).w then
        .next ((s.placeElement (s.bank s.pkBank).w v).flushed.ok 0)
      else .next ((s.placeElement (s.bank s.pkBank).w v).ok 0) := by
  have hf := h.filling active
  rw [exec, execPkpush, if_pos active, State.width?_of_range hf.width_pos hf.width_le]
  dsimp only
  split
  · rfl
  · next wide =>
    split
    · rfl
    · next room =>
      rw [State.cnt_placeElement]
      split
      · next full =>
        rw [h.flushWord_placeElement active (Nat.lt_of_not_le wide) room full]
        exact State.respond_zero _
      · exact State.respond_zero _

theorem exec_pkpush_of_wide {s : State} (h : s.Inv) (active : s.pkActive = true) {v : Nat}
    (wide : 2 ^ (s.bank s.pkBank).w ≤ v) : exec (.pkpush v) s = .next (s.abortConstruction.failed 1) := by
  rw [exec_pkpush_of_active h active, if_pos wide]

theorem exec_pkpush_of_noRoom {s : State} (h : s.Inv) (active : s.pkActive = true) {v : Nat}
    (fits : v < 2 ^ (s.bank s.pkBank).w) (full : (s.bank s.pkBank).nw = s.cap s.pkBank) :
    exec (.pkpush v) s = .next (s.abortConstruction.failed 9) := by
  rw [exec_pkpush_of_active h active, if_neg (Nat.not_le.mpr fits), if_pos full]

theorem exec_pkpush_of_room {s : State} (h : s.Inv) (active : s.pkActive = true) {v : Nat}
    (fits : v < 2 ^ (s.bank s.pkBank).w) (room : (s.bank s.pkBank).nw ≠ s.cap s.pkBank) :
    exec (.pkpush v) s =
      if s.cnt + 1 = epw s.params.wordBits (s.bank s.pkBank).w then
        .next ((s.placeElement (s.bank s.pkBank).w v).flushed.ok 0)
      else .next ((s.placeElement (s.bank s.pkBank).w v).ok 0) := by
  rw [exec_pkpush_of_active h active, if_neg (Nat.not_le.mpr fits), if_neg room]

/-! ### `PKEND` (rule R113) -/

theorem exec_pkend_of_idle {s : State} (idle : s.pkActive = false) : exec .pkend s = .next (s.failed 7) :=
  if_neg (by simp [idle])

theorem exec_pkend_of_unstaged {s : State} (active : s.pkActive = true) (staged : s.cnt = 0) :
    exec .pkend s = .next (s.sealConstruction.ok 0) := by
  rw [exec, execPkend, if_pos active, if_neg (by omega), State.respond_zero]

theorem exec_pkend_of_staged {s : State} (h : s.Inv) (active : s.pkActive = true) (staged : 0 < s.cnt) :
    exec .pkend s = .next (s.flushed.sealConstruction.ok 0) := by
  rw [exec, execPkend, if_pos active, if_pos staged, h.flushWord active staged]
  exact State.respond_zero _

end Sys2Proof.Machine
end

section
/-! SUPPORT. The words of a packed array in closed form, and the element read back from them (41_packer.md rule R110,
20_memory.md rules R70 to R73). -/

namespace Sys2Proof.Machine

/-! ### One word -/

/-- Bit `m` of a value shifted to lane `k` is bit `m % W` of the value, in that lane alone. -/
theorem testBit_shiftLeft_lane {w v : Nat} (h1 : 1 ≤ w) (fits : v < 2 ^ w) (k m : Nat) :
    (v <<< (k * w)).testBit m = (decide (m / w = k) && v.testBit (m % w)) := by
  rw [Nat.testBit_shiftLeft]
  rcases Nat.lt_or_ge m (k * w) with below | above
  · have lane : m / w < k := (Nat.div_lt_iff_lt_mul h1).mpr below
    simp [lane.ne, Nat.not_le.mpr below]
  · obtain ⟨x, rfl⟩ := Nat.exists_eq_add_of_le' above
    rw [Nat.add_sub_cancel, Nat.add_mul_div_right _ _ h1, Nat.add_mul_mod_self_right]
    rcases Nat.lt_or_ge x w with inside | outside
    · simp [Nat.div_eq_of_lt inside, Nat.mod_eq_of_lt inside]
    · have high : v.testBit x = false :=
        Nat.testBit_lt_two_pow (fits.trans_le (Nat.pow_le_pow_right (by decide) outside))
      simp [high, (Nat.div_pos outside h1).ne']

/-- A packed word is a word. -/
theorem packWord_lt {b w : Nat} (h1 : 1 ≤ w) {e : Nat → Nat} (he : ∀ j, j < epw b w → e j < 2 ^ w) :
    packWord b w e < 2 ^ b := by
  refine Nat.lt_pow_two_of_testBit _ fun m hm => ?_
  have outside : ¬ m / w < epw b w :=
    Nat.not_lt.mpr ((Nat.le_div_iff_mul_le h1).mpr ((epw_mul_le b w).trans hm))
  rw [testBit_packWord h1 he, decide_eq_false outside, Bool.false_and]

/-- Lane `j` of a packed word is element `j`. -/
theorem lane_packWord {b w : Nat} (h1 : 1 ≤ w) {e : Nat → Nat} (he : ∀ j, j < epw b w → e j < 2 ^ w) {j : Nat}
    (hj : j < epw b w) : lane w (packWord b w e) j = e j := by
  refine Nat.eq_of_testBit_eq fun m => ?_
  rw [lane, mask, Nat.testBit_and, Nat.testBit_shiftRight, Nat.testBit_two_pow_sub_one, testBit_packWord h1 he]
  rcases Nat.lt_or_ge m w with inside | outside
  · rw [Nat.mul_comm, Nat.mul_add_div h1, Nat.mul_add_mod, Nat.div_eq_of_lt inside, Nat.mod_eq_of_lt inside]
    simp [hj, inside]
  · have high : (e j).testBit m = false :=
      Nat.testBit_lt_two_pow ((he j hj).trans_le (Nat.pow_le_pow_right (by decide) outside))
    simp [high, Nat.not_lt.mpr outside]

/-- A packed word depends on the elements of its lanes alone. -/
theorem packWord_congr {b w : Nat} {e f : Nat → Nat} (h : ∀ j, j < epw b w → e j = f j) :
    packWord b w e = packWord b w f := sumTo_congr fun j hj => by rw [h j hj]

/-! ### The words of an array -/

/-- An array of `a` elements fits `c` words. -/
theorem ceilDiv_le_iff {a n c : Nat} (h : 0 < n) : ceilDiv a n ≤ c ↔ a ≤ c * n := by
  rw [ceilDiv, Nat.div_le_iff_le_mul_add_pred h, Nat.mul_comm]
  omega

theorem elementsOfWord_lt {w : Nat} {values : List Nat} (fits : ∀ v ∈ values, v < 2 ^ w) (b q j : Nat) :
    elementsOfWord b w values q j < 2 ^ w := by
  rw [elementsOfWord, List.getD_eq_getElem?_getD]
  cases hv : values[q * epw b w + j]? with
  | none => exact Nat.two_pow_pos w
  | some v => exact fits v (List.mem_of_getElem? hv)

/-- A missing element is 0 (20_memory.md rule R72). -/
theorem elementsOfWord_of_ge {b w : Nat} {values : List Nat} {q j : Nat} (h : values.length ≤ q * epw b w + j) :
    elementsOfWord b w values q j = 0 := List.getD_eq_default _ _ h

theorem elementsOfWord_append_of_lt {b w : Nat} {values : List Nat} {q j : Nat} (h : q * epw b w + j < values.length)
    (more : List Nat) : elementsOfWord b w (values ++ more) q j = elementsOfWord b w values q j :=
  List.getD_append _ _ _ _ h

/-- The first `n` words of the array of `values`, in closed form. -/
def packedWords (b w : Nat) (values : List Nat) (n : Nat) : List Nat :=
  (List.range n).map fun q => packWord b w (elementsOfWord b w values q)

@[simp] theorem length_packedWords (b w : Nat) (values : List Nat) (n : Nat) :
    (packedWords b w values n).length = n := by
  simp [packedWords]

theorem packedWords_succ (b w : Nat) (values : List Nat) (n : Nat) :
    packedWords b w values (n + 1) = packedWords b w values n ++ [packWord b w (elementsOfWord b w values n)] := by
  simp [packedWords, List.range_succ]

/-- Elements appended leave the full words before them as they are. -/
theorem packedWords_append {b w : Nat} {values : List Nat} {n : Nat} (full : n * epw b w ≤ values.length)
    (more : List Nat) : packedWords b w (values ++ more) n = packedWords b w values n := by
  refine List.map_congr_left fun q hq => packWord_congr fun j hj => elementsOfWord_append_of_lt ?_ more
  have hword := Nat.mul_le_mul_right (epw b w) (Nat.succ_le_of_lt (List.mem_range.mp hq))
  rw [Nat.succ_mul] at hword
  omega

/-! ### The function `pack` -/

theorem pack_of_fits {b w : Nat} {values : List Nat} (h8 : b % 8 = 0) (h1 : 1 ≤ w) (h2 : w ≤ b)
    (fits : ∀ v ∈ values, v < 2 ^ w) :
    pack b w values = .ok (packedWords b w values (arrayWords b w values.length)) := by
  rw [pack, if_pos (List.all_eq_true.mpr fun v hv => decide_eq_true (fits v hv)), packedWords]
  congr 1
  exact List.map_congr_left fun q _ => packWordByBytes_eq h8 h1 h2 fun j _ => elementsOfWord_lt fits b q j

theorem pack_of_wide {b w : Nat} {values : List Nat} (wide : ∃ v ∈ values, 2 ^ w ≤ v) :
    pack b w values = .error .valueOutOfRange := by
  obtain ⟨v, hv, hw⟩ := wide
  refine if_neg fun fits => Nat.not_le.mpr ?_ hw
  exact of_decide_eq_true (List.all_eq_true.mp fits v hv)

/-- `pack` succeeds only where every value fits. -/
theorem pack_eq_ok {b w : Nat} {values ws : List Nat} (h8 : b % 8 = 0) (h1 : 1 ≤ w) (h2 : w ≤ b)
    (h : pack b w values = .ok ws) :
    (∀ v ∈ values, v < 2 ^ w) ∧ ws = packedWords b w values (arrayWords b w values.length) := by
  have fits : ∀ v ∈ values, v < 2 ^ w := by
    by_contra hwide
    push Not at hwide
    cases h.symm.trans (pack_of_wide hwide)
  exact ⟨fits, Except.ok.inj (h.symm.trans (pack_of_fits h8 h1 h2 fits))⟩

/-- The word of an element of the array is one of its words. -/
theorem wordIndex_lt_arrayWords {b w n i : Nat} (he : 0 < epw b w) (hi : i < n) :
    wordIndex b w i < arrayWords b w n := by
  refine (Nat.le_div_iff_mul_le he).mpr ?_
  have hfull : wordIndex b w i * epw b w ≤ i := Nat.div_mul_le_self _ _
  rw [Nat.succ_mul]
  omega

/-- `unpack(pack(v)) = v`: every element is read back from the words of its array (41_packer.md rule R115). -/
theorem unpack_of_pack {b w : Nat} {values ws : List Nat} (h8 : b % 8 = 0) (h1 : 1 ≤ w) (h2 : w ≤ b)
    (h : pack b w values = .ok ws) {i v : Nat} (hi : values[i]? = some v) : unpack b w ws i = some v := by
  obtain ⟨fits, rfl⟩ := pack_eq_ok h8 h1 h2 h
  have he := epw_pos h8 h1 h2
  obtain ⟨hlt, hget⟩ := List.getElem?_eq_some_iff.mp hi
  have hword := wordIndex_lt_arrayWords he hlt
  have hlane : offsetInWord b w i < epw b w := Nat.mod_lt _ he
  have helement : elementsOfWord b w values (wordIndex b w i) (offsetInWord b w i) = v := by
    rw [elementsOfWord, wordIndex, offsetInWord, Nat.div_add_mod', List.getD_eq_getElem _ _ hlt, hget]
  rw [unpack, packedWords, List.getElem?_map, List.getElem?_range hword]
  simp [lane_packWord h1 (fun j _ => elementsOfWord_lt fits b _ j) hlane, helement]

end Sys2Proof.Machine
end

section
/-! SUPPORT. Runs of commands: in two parts, all of them successful, or all of them refused for want of a construction
(20_memory.md rule R80, 41_packer.md rules R112, R113). -/

namespace Sys2Proof.Machine

theorem runAll_append_next {xs ys : List Instr} {s t : State} :
    runAll (xs ++ ys) s = .next t ↔ ∃ u, runAll xs s = .next u ∧ runAll ys u = .next t := by
  induction xs generalizing s with
  | nil => simp
  | cons i rest ih =>
    rw [List.cons_append, runAll_cons_next]
    simp only [runAll_cons_next, ih]
    exact ⟨fun ⟨m, hm, u, hu, ht⟩ => ⟨u, ⟨m, hm, hu⟩, ht⟩, fun ⟨u, ⟨m, hm, hu⟩, ht⟩ => ⟨m, hm, u, hu, ht⟩⟩

theorem runAll_singleton (i : Instr) (s : State) : runAll [i] s = exec i s := by
  cases h : exec i s <;> simp [runAll, h]

theorem runAll_construction_next {b : Bank} {values : List Nat} {s t : State} :
    runAll (construction b values) s = .next t ↔
      ∃ u, runAll (.pkbegin b :: values.map .pkpush) s = .next u ∧ exec .pkend u = .next t := by
  rw [construction, ← List.cons_append, runAll_append_next]
  simp only [runAll_singleton]

/-! ### One response per command -/

theorem exec_responses {i : Instr} {s t : State} (h : exec i s = .next t) : ∃ r, t.responses = r :: s.responses := by
  obtain ⟨before, -⟩ | ⟨before, -⟩ := exec_delivers h
  · exact ⟨_, by rw [State.responses_ok, before]⟩
  · exact ⟨_, by rw [State.responses_failed, before]⟩

theorem runAll_responses {cmds : List Instr} {s t : State} (h : runAll cmds s = .next t) :
    ∃ rs, rs.length = cmds.length ∧ t.responses = rs ++ s.responses := by
  induction cmds generalizing s with
  | nil => cases h; exact ⟨[], rfl, rfl⟩
  | cons i rest ih =>
    obtain ⟨u, hu, ht⟩ := runAll_cons_next.mp h
    obtain ⟨r, hr⟩ := exec_responses hu
    obtain ⟨rs, hlength, hrs⟩ := ih ht
    exact ⟨rs ++ [r], by simp [hlength], by simp [hrs, hr]⟩

/-- Where a run in two parts is answered with successes, each part is. -/
theorem runAll_append_allOk {xs ys : List Instr} {s t : State} (h : runAll (xs ++ ys) s = .next t)
    (ok : t.AllOkSince s (xs ++ ys).length) :
    ∃ u, runAll xs s = .next u ∧ u.AllOkSince s xs.length ∧ runAll ys u = .next t ∧ t.AllOkSince u ys.length := by
  obtain ⟨u, hu, ht⟩ := runAll_append_next.mp h
  obtain ⟨rs, hrs, hu_responses⟩ := runAll_responses hu
  obtain ⟨rs', hrs', ht_responses⟩ := runAll_responses ht
  have split : rs' ++ rs = List.replicate (ys.length + xs.length) ⟨0#8, 0⟩ := by
    refine List.append_cancel_right (bs := s.responses) ?_
    rw [List.append_assoc, ← hu_responses, ← ht_responses, ok, List.length_append, Nat.add_comm]
  rw [← List.replicate_append_replicate] at split
  obtain ⟨rfl, rfl⟩ := List.append_inj split (by simpa using hrs')
  exact ⟨u, hu, hu_responses, ht, ht_responses⟩

theorem runAll_cons_allOk {i : Instr} {rest : List Instr} {s t : State} (h : runAll (i :: rest) s = .next t)
    (ok : t.AllOkSince s (rest.length + 1)) :
    ∃ u, exec i s = .next u ∧ u.AllOkSince s 1 ∧ runAll rest u = .next t ∧ t.AllOkSince u rest.length := by
  obtain ⟨u, hu, hu_ok, ht, ht_ok⟩ := runAll_append_allOk (xs := [i]) h (by simpa [Nat.add_comm] using ok)
  exact ⟨u, (runAll_singleton i s).symm.trans hu, hu_ok, ht, ht_ok⟩

theorem State.status_ok {u : State} {d : Nat} {r : Response} {rs : List Response} (h : (u.ok d).responses = r :: rs) :
    r.status = 0#8 := by
  obtain ⟨rfl, -⟩ := List.cons.inj h
  rfl

theorem State.status_failed {u : State} {n : Nat} {r : Response} {rs : List Response} (code : 1 ≤ n ∧ n ≤ 11)
    (h : (u.failed n).responses = r :: rs) : r.status ≠ 0#8 := by
  obtain ⟨rfl, -⟩ := List.cons.inj h
  exact beq_eq_false_iff_ne.mp (status_ne_success code)

/-- A command that is answered with success completes. -/
theorem Answers.completes_of_allOk {s t : State} {i : Instr} (ht : Answers s i t) (ok : t.AllOkSince s 1) :
    ∃ u, Completes s i u ∧ t = u.ok 0 := by
  have responses : t.responses = ⟨0#8, 0⟩ :: s.responses := ok
  cases ht with
  | ok d done =>
    obtain ⟨hd, -⟩ := List.cons.inj responses
    cases hd
    exact ⟨_, done, rfl⟩
  | refused code | aborted code => exact absurd rfl (State.status_failed code responses)

theorem State.AllOkSince.ok {s0 s u : State} {n : Nat} (h : s.AllOkSince s0 n) (hu : u.responses = s.responses) :
    (u.ok 0).AllOkSince s0 (n + 1) := by
  rw [State.AllOkSince, State.responses_ok, hu, h, List.replicate_succ, List.cons_append]

/-! ### Commands refused because no construction is open -/

@[simp] theorem State.responses_withErr (s : State) (e : BitVec 12) (rs : List Response) :
    (s.withErr e rs).responses = rs := rfl

@[simp] theorem lifecycle_withErr (s : State) (e : BitVec 12) (rs : List Response) (b : Bank) :
    lifecycle (s.withErr e rs) b = lifecycle s b := lifecycle_congr (by simp) rfl rfl

/-- With no construction open `PKPUSH` and `PKEND` end in `PackerState`, however many are sent. -/
theorem runAll_of_idle {cmds : List Instr} (advance : ∀ i ∈ cmds, (∃ v, i = .pkpush v) ∨ i = .pkend) {s : State}
    (idle : s.pkActive = false) :
    ∃ e, runAll cmds s = .next (s.withErr e (List.replicate cmds.length ⟨7#8, 0⟩ ++ s.responses)) := by
  induction cmds generalizing s with
  | nil => exact ⟨s.err, rfl⟩
  | cons i rest ih =>
    obtain ⟨hi, hrest⟩ := List.forall_mem_cons.mp advance
    have refused : exec i s = .next (s.failed 7) := by
      obtain ⟨v, rfl⟩ | rfl := hi
      · exact exec_pkpush_of_idle idle v
      · exact exec_pkend_of_idle idle
    obtain ⟨e, he⟩ := ih hrest (s := s.failed 7) idle
    refine ⟨e, runAll_cons_next.mpr ⟨_, refused, he.trans ?_⟩⟩
    simp [State.withErr, State.failed, List.replicate_succ']

end Sys2Proof.Machine
end

section
/-! SUPPORT. What the packer commands leave unchanged (41_packer.md rules R111 to R113, 20_memory.md rules R75, R77). -/

namespace Sys2Proof.Machine

@[simp] theorem State.port_flushed (s : State) : s.flushed.port = s.port := by simp [State.flushed]

theorem Completes.port_eq {s u : State} {i : Instr} (hu : Completes s i u) : u.port = s.port := by
  cases hu with
  | fill _ _ _ flush | flushFinish _ _ flush =>
    obtain ⟨-, -, rfl⟩ := State.flushWord_ok flush
    simp
  | read | write | begin | place | finish | load | close | reset => simp

/-! ### The words read -/

/-- A bank whose words are the same reads the same. -/
theorem State.word?_congr {s t : State} {b : Bank} (nw : (t.bank b).nw = (s.bank b).nw)
    (mem : (t.bank b).mem = (s.bank b).mem) (a : Nat) : t.word? b a = s.word? b a := by
  rw [State.word?, State.word?, nw, mem]

theorem State.word?_of_bank_eq {s t : State} {b : Bank} (h : t.bank b = s.bank b) (a : Nat) :
    t.word? b a = s.word? b a := State.word?_congr (by rw [h]) (by rw [h]) a

@[simp] theorem State.word?_ok (s : State) (v : Nat) (b : Bank) (a : Nat) : (s.ok v).word? b a = s.word? b a :=
  State.word?_of_bank_eq (s.bank_ok v b) a

@[simp] theorem State.word?_failed (s : State) (n : Nat) (b : Bank) (a : Nat) : (s.failed n).word? b a = s.word? b a :=
  State.word?_of_bank_eq (s.bank_failed n b) a

@[simp] theorem State.word?_placeElement (s : State) (w v : Nat) (b : Bank) (a : Nat) :
    (s.placeElement w v).word? b a = s.word? b a := State.word?_of_bank_eq (s.bank_placeElement w v b) a

@[simp] theorem State.word?_sealConstruction (s : State) (b : Bank) (a : Nat) :
    s.sealConstruction.word? b a = s.word? b a := by
  by_cases hb : b = s.pkBank
  · subst hb
    exact State.word?_congr (by simp) (by simp) a
  · exact State.word?_of_bank_eq (s.bank_sealConstruction_other hb) a

/-- Writing the staging word stores it at word `NW` of the bank being filled and nowhere else. -/
theorem State.word?_flushed (s : State) (b : Bank) (a : Nat) :
    s.flushed.word? b a = if b = s.pkBank ∧ a = (s.bank s.pkBank).nw then some s.acc else s.word? b a := by
  rw [State.word?_of_bank_eq (s.bank_flushed b), State.word?_appended]

theorem State.word?_flushed_other (s : State) {b : Bank} {a : Nat} (h : ¬ (b = s.pkBank ∧ a = (s.bank s.pkBank).nw)) :
    s.flushed.word? b a = s.word? b a := by rw [State.word?_flushed, if_neg h]

/-! ### A `PKPUSH` that completes -/

theorem Completes.active_of_pkpush {s u : State} {v : Nat} (hu : Completes s (.pkpush v) u) : s.pkActive = true := by
  cases hu with
  | read reads => cases reads
  | place active | fill active => exact active

theorem Completes.packer_of_pkpush {s u : State} {v : Nat} (hu : Completes s (.pkpush v) u) :
    u.pkActive = s.pkActive ∧ u.pkBank = s.pkBank := by
  cases hu with
  | read reads => cases reads
  | place => exact ⟨rfl, rfl⟩
  | fill _ _ _ flush =>
    obtain ⟨-, -, rfl⟩ := State.flushWord_ok flush
    exact ⟨State.pkActive_flushed _, State.pkBank_flushed _⟩

theorem Completes.bank_other_of_pkpush {s u : State} {v : Nat} (hu : Completes s (.pkpush v) u) {c : Bank}
    (hc : c ≠ s.pkBank) : u.bank c = s.bank c := by
  cases hu with
  | read reads => cases reads
  | place => exact s.bank_placeElement _ _ c
  | fill _ _ _ flush =>
    obtain ⟨-, -, rfl⟩ := State.flushWord_ok flush
    exact State.bank_flushed_other (s.placeElement _ v) hc

/-- Only the words of the bank being filled change. -/
theorem Completes.bank_of_pkpush {s u : State} {v : Nat} (hu : Completes s (.pkpush v) u) :
    ∃ nw mem, u.bank s.pkBank = { s.bank s.pkBank with nw := nw, mem := mem } := by
  cases hu with
  | read reads => cases reads
  | place => exact ⟨_, _, s.bank_placeElement _ _ s.pkBank⟩
  | fill _ _ _ flush =>
    obtain ⟨-, -, rfl⟩ := State.flushWord_ok flush
    exact ⟨_, _, State.bank_flushed_same (s.placeElement _ v)⟩

theorem Completes.config_of_pkpush {s u : State} {v : Nat} (hu : Completes s (.pkpush v) u) (c : Bank) :
    (u.bank c).w = (s.bank c).w ∧ (u.bank c).len = (s.bank c).len ∧ (u.bank c).isSealed = (s.bank c).isSealed := by
  by_cases hc : c = s.pkBank
  · obtain ⟨nw, mem, hbank⟩ := hu.bank_of_pkpush
    simp [hc, hbank]
  · simp [hu.bank_other_of_pkpush hc]

theorem Completes.word?_of_pkpush {s u : State} {v : Nat} (hu : Completes s (.pkpush v) u) {c : Bank} {a : Nat}
    (h : ¬ (c = s.pkBank ∧ a = (s.bank s.pkBank).nw) ∨ s.cnt + 1 ≠ epw s.params.wordBits (s.bank s.pkBank).w) :
    u.word? c a = s.word? c a := by
  cases hu with
  | read reads => cases reads
  | place => simp
  | fill _ _ full flush =>
    obtain ⟨-, -, rfl⟩ := State.flushWord_ok flush
    have elsewhere := h.resolve_right (not_not_intro full)
    rw [State.word?_flushed_other _ (by simpa using elsewhere), State.word?_placeElement]

/-! ### A `PKEND` that completes -/

/-- The bank after the flush of `PKEND`: a staging word that holds elements is written. -/
def BankState.completed (x : BankState) (acc cnt : Nat) : BankState := if cnt = 0 then x else x.appended acc

@[simp] theorem BankState.w_completed (x : BankState) (acc cnt : Nat) : (x.completed acc cnt).w = x.w := by
  unfold BankState.completed
  split <;> rfl

theorem Completes.active_of_pkend {s u : State} (hu : Completes s .pkend u) : s.pkActive = true := by
  cases hu with
  | read reads => cases reads
  | finish active | flushFinish active => exact active

theorem Completes.idle_of_pkend {s u : State} (hu : Completes s .pkend u) : u.pkActive = false := by
  cases hu with
  | read reads => cases reads
  | finish | flushFinish => simp

theorem Completes.bank_of_pkend {s u : State} (hu : Completes s .pkend u) :
    u.bank s.pkBank = { (s.bank s.pkBank).completed s.acc s.cnt with len := s.pkCount, isSealed := true } := by
  cases hu with
  | read reads => cases reads
  | finish _ staged => simp [BankState.completed, staged]
  | flushFinish _ staged flush =>
    obtain ⟨-, -, rfl⟩ := State.flushWord_ok flush
    simp [BankState.completed, staged.ne']

theorem Completes.bank_other_of_pkend {s u : State} (hu : Completes s .pkend u) {c : Bank} (hc : c ≠ s.pkBank) :
    u.bank c = s.bank c := by
  cases hu with
  | read reads => cases reads
  | finish => exact s.bank_sealConstruction_other hc
  | flushFinish _ _ flush =>
    obtain ⟨-, -, rfl⟩ := State.flushWord_ok flush
    rw [State.bank_sealConstruction_other _ (by simpa using hc), State.bank_flushed_other s hc]

theorem Completes.word?_of_pkend {s u : State} (hu : Completes s .pkend u) {c : Bank} {a : Nat}
    (h : ¬ (c = s.pkBank ∧ a = (s.bank s.pkBank).nw) ∨ s.cnt = 0) : u.word? c a = s.word? c a := by
  cases hu with
  | read reads => cases reads
  | finish => simp
  | flushFinish _ staged flush =>
    obtain ⟨-, -, rfl⟩ := State.flushWord_ok flush
    rw [State.word?_sealConstruction, State.word?_flushed_other s (h.resolve_right staged.ne')]

end Sys2Proof.Machine
end

section
/-! SUPPORT. A construction holds the packed words of the elements pushed: the bank its full words and the staging word
the one that follows (41_packer.md rule R114, 10_state.md rule R38). -/

namespace Sys2Proof.Machine

/-! ### The words of the bank and the staging word -/

/-- Bank `x` and the staging word `acc` of `cnt` elements hold the array of `values`, for a word of `b` bits. -/
structure Staged (b : Nat) (x : BankState) (acc cnt : Nat) (values : List Nat) : Prop where
  fits : ∀ v ∈ values, v < 2 ^ x.w
  length : values.length = x.nw * epw b x.w + cnt
  words : x.mem.map Prod.snd = packedWords b x.w values x.nw
  staging : acc = packWord b x.w (elementsOfWord b x.w values x.nw)

/-- No element of a word from the length on, so the word is 0. -/
theorem packWord_elementsOfWord_of_ge {b w : Nat} {values : List Nat} {q : Nat} (h1 : 1 ≤ w)
    (h : values.length ≤ q * epw b w) : packWord b w (elementsOfWord b w values q) = 0 := by
  have zero : ∀ j, elementsOfWord b w values q j = 0 := fun j => elementsOfWord_of_ge (h.trans (Nat.le_add_right _ _))
  refine Nat.eq_of_testBit_eq fun m => ?_
  rw [testBit_packWord h1 fun j _ => (zero j).trans_lt (Nat.two_pow_pos w), zero]
  simp

/-- An element appended to an array goes to the lane that follows in its last word, which was 0: the `|` of rule R112
is an exact placement. -/
theorem packWord_elementsOfWord_append {b w : Nat} {values : List Nat} {q c v : Nat} (h1 : 1 ≤ w)
    (fits : ∀ x ∈ values, x < 2 ^ w) (hv : v < 2 ^ w) (length : values.length = q * epw b w + c) (hc : c < epw b w) :
    packWord b w (elementsOfWord b w (values ++ [v]) q) =
      packWord b w (elementsOfWord b w values q) ||| v <<< (c * w) := by
  have fits' : ∀ x ∈ values ++ [v], x < 2 ^ w := by simpa [or_imp, forall_and] using ⟨fits, hv⟩
  have last : elementsOfWord b w (values ++ [v]) q c = v := by simp [elementsOfWord, ← length]
  have other : ∀ j, j ≠ c → elementsOfWord b w (values ++ [v]) q j = elementsOfWord b w values q j := fun j hj => by
    rcases Nat.lt_or_gt_of_ne hj with before | after
    · exact elementsOfWord_append_of_lt (by omega) _
    · rw [elementsOfWord_of_ge (by simp [length]; omega), elementsOfWord_of_ge (by omega)]
  refine Nat.eq_of_testBit_eq fun m => ?_
  rw [Nat.testBit_or, testBit_shiftLeft_lane h1 hv, testBit_packWord h1 fun j _ => elementsOfWord_lt fits' b q j,
    testBit_packWord h1 fun j _ => elementsOfWord_lt fits b q j]
  by_cases lane : m / w = c
  · rw [lane, last, elementsOfWord_of_ge length.le]
    simp [hc]
  · rw [other _ lane]
    simp [lane]

theorem Staged.empty (b : Nat) {x : BankState} (h1 : 1 ≤ x.w) :
    Staged b { x with nw := 0, mem := [] } 0 0 [] where
  fits := by simp
  length := by simp
  words := rfl
  staging := (packWord_elementsOfWord_of_ge h1 (Nat.zero_le _)).symm

theorem Staged.place {b acc cnt v : Nat} {x : BankState} {values : List Nat} (h : Staged b x acc cnt values)
    (h1 : 1 ≤ x.w) (hv : v < 2 ^ x.w) (hc : cnt < epw b x.w) :
    Staged b x (acc ||| v <<< (cnt * x.w)) (cnt + 1) (values ++ [v]) where
  fits := by simpa [or_imp, forall_and] using ⟨h.fits, hv⟩
  length := by simp [h.length, Nat.add_assoc]
  words := by rw [packedWords_append (h.length ▸ Nat.le_add_right _ _), h.words]
  staging := by rw [packWord_elementsOfWord_append h1 h.fits hv h.length hc, ← h.staging]

/-- The staging word written is the next word of the array. -/
theorem Staged.words_appended {b acc cnt : Nat} {x : BankState} {values : List Nat} (h : Staged b x acc cnt values)
    {p : Params} {cap : Nat} (inv : x.Inv p cap) :
    (x.appended acc).mem.map Prod.snd = packedWords b x.w values (x.nw + 1) := by
  rw [inv.appended_eq, packedWords_succ, ← h.words, ← h.staging]
  simp

/-- A full staging word written leaves an empty one. -/
theorem Staged.flush {b acc cnt : Nat} {x : BankState} {values : List Nat} (h : Staged b x acc cnt values)
    {p : Params} {cap : Nat} (inv : x.Inv p cap) (h1 : 1 ≤ x.w) (full : cnt = epw b x.w) :
    Staged b (x.appended acc) 0 0 values := by
  have length : values.length = (x.nw + 1) * epw b x.w := by rw [h.length, full, Nat.succ_mul]
  exact ⟨h.fits, length, h.words_appended inv, (packWord_elementsOfWord_of_ge h1 length.le).symm⟩

/-! ### An open construction -/

theorem State.ReadyFor.epw_pos {s : State} {b : Bank} (h : s.ReadyFor b) (configured : 1 ≤ (s.bank b).w) :
    0 < epw s.params.wordBits (s.bank b).w :=
  Machine.epw_pos h.inv.legal.2.1 configured (h.inv.bank b).width_le

theorem construction_append (b : Bank) (before after : List Nat) (v : Nat) :
    construction b (before ++ v :: after) =
      (.pkbegin b :: before.map .pkpush) ++ .pkpush v :: (after.map .pkpush ++ [.pkend]) := by
  simp [construction]

theorem pkbegin_take_succ (b : Bank) {values : List Nat} {n : Nat} (h : n < values.length) :
    Instr.pkbegin b :: (values.take (n + 1)).map .pkpush =
      (.pkbegin b :: (values.take n).map .pkpush) ++ [.pkpush values[n]] := by
  rw [List.take_succ_eq_append_getElem h, List.map_append]
  rfl

/-- `Pushed s0 b values s`: from `s0` a construction was opened on bank `b` and `values` were pushed, all with success,
and `s` is the state now. -/
structure Pushed (s0 : State) (b : Bank) (values : List Nat) (s : State) : Prop where
  inv : s.Inv
  active : s.pkActive = true
  bank : s.pkBank = b
  params : s.params = s0.params
  width : (s.bank b).w = (s0.bank b).w
  others : ∀ c, c ≠ b → s.bank c = s0.bank c
  staged : Staged s.params.wordBits (s.bank b) s.acc s.cnt values
  answers : s.AllOkSince s0 (values.length + 1)

theorem Pushed.begin {s u : State} {b : Bank} (h : s.Inv) (hu : Completes s (.pkbegin b) u) :
    Pushed s b [] (u.ok 0) := by
  have inv := (hu.keeps_inv h).ok 0
  cases hu with
  | read reads => cases reads
  | begin idle opened configured =>
    exact {
      inv := inv
      active := by simp
      bank := by simp
      params := by simp
      width := by simp
      others := fun c hc => by rw [State.bank_ok, State.bank_openPacker_other s hc]
      staged := by simpa using Staged.empty _ (Nat.one_le_iff_ne_zero.mpr configured)
      answers := State.AllOkSince.ok (s := s) rfl (by simp) }

/-- An element pushed joins the array: it is placed, and a word it completes is written. -/
theorem Completes.staged_of_pkpush {s u : State} {v : Nat} {values : List Nat} (hu : Completes s (.pkpush v) u)
    (h : s.Inv) (staged : Staged s.params.wordBits (s.bank s.pkBank) s.acc s.cnt values) :
    Staged u.params.wordBits (u.bank s.pkBank) u.acc u.cnt (values ++ [v]) := by
  cases hu with
  | read reads => cases reads
  | place active fits =>
    have hf := h.filling active
    simpa using staged.place hf.width_pos fits hf.cnt_lt
  | fill active fits full flush =>
    have hf := h.filling active
    obtain ⟨-, -, rfl⟩ := State.flushWord_ok flush
    have hbank := State.bank_flushed_same (s.placeElement (s.bank s.pkBank).w v)
    rw [State.bank_placeElement, State.pkBank_placeElement, State.acc_placeElement] at hbank
    simpa [hbank] using (staged.place hf.width_pos fits hf.cnt_lt).flush (h.bank _) hf.width_pos full

theorem Pushed.push {s0 s u : State} {b : Bank} {values : List Nat} {v : Nat} (h : Pushed s0 b values s)
    (hu : Completes s (.pkpush v) u) : Pushed s0 b (values ++ [v]) (u.ok 0) := by
  obtain ⟨inv, active, rfl, params, width, others, staged, answers⟩ := h
  obtain ⟨hactive, hbank⟩ := hu.packer_of_pkpush
  exact {
    inv := (hu.keeps_inv inv).ok 0
    active := hactive.trans active
    bank := hbank
    params := hu.params_eq.trans params
    width := by rw [State.bank_ok, (hu.config_of_pkpush _).1, width]
    others := fun c hc => by rw [State.bank_ok, hu.bank_other_of_pkpush hc, others c hc]
    staged := by simpa using hu.staged_of_pkpush inv staged
    answers := by simpa using answers.ok hu.responses_eq }

/-- The words written are those the elements pushed fill. -/
theorem Pushed.nw_eq {s0 s : State} {b : Bank} {values : List Nat} (h : Pushed s0 b values s) :
    (s.bank b).nw = values.length / epw s0.params.wordBits (s0.bank b).w := by
  obtain ⟨inv, active, rfl, params, width, -, staged, -⟩ := h
  have cnt_lt := (inv.filling active).cnt_lt
  have length := staged.length
  rw [params, width] at cnt_lt length
  rw [length, Nat.add_comm, Nat.add_mul_div_right _ _ (by omega), Nat.div_eq_of_lt cnt_lt, Nat.zero_add]

theorem Pushed.cap_eq {s0 s : State} {b : Bank} {values : List Nat} (h : Pushed s0 b values s) (c : Bank) :
    s.cap c = s0.cap c := by rw [State.cap, h.params, State.cap]

theorem exists_completes_pkpush {s : State} (h : s.Inv) (active : s.pkActive = true) {v : Nat}
    (fits : v < 2 ^ (s.bank s.pkBank).w) (room : (s.bank s.pkBank).nw ≠ s.cap s.pkBank) :
    ∃ u, Completes s (.pkpush v) u ∧ exec (.pkpush v) s = .next (u.ok 0) := by
  rw [exec_pkpush_of_room h active fits room]
  split
  · next full => exact ⟨_, .fill active fits full (h.flushWord_placeElement active fits room full), rfl⟩
  · next part => exact ⟨_, .place active fits room part, rfl⟩

/-- Elements that fit the width and the capacity are all pushed. -/
theorem Pushed.pushes {s0 s : State} {b : Bank} {before values : List Nat} (h : Pushed s0 b before s)
    (fits : ∀ v ∈ values, v < 2 ^ (s0.bank b).w)
    (room : (before ++ values).length ≤ s0.cap b * epw s0.params.wordBits (s0.bank b).w) :
    ∃ t, runAll (values.map .pkpush) s = .next t ∧ Pushed s0 b (before ++ values) t := by
  induction values generalizing before s with
  | nil => exact ⟨s, rfl, by simpa using h⟩
  | cons v rest ih =>
    obtain ⟨hv, hrest⟩ := List.forall_mem_cons.mp fits
    have full : (s.bank s.pkBank).nw ≠ s.cap s.pkBank := by
      rw [h.bank, h.nw_eq, h.cap_eq]
      refine (Nat.div_lt_of_lt_mul ?_).ne
      rw [Nat.mul_comm]
      exact Nat.lt_of_lt_of_le (by simp) room
    obtain ⟨u, hu, hexec⟩ := exists_completes_pkpush h.inv h.active (by rwa [h.bank, h.width]) full
    obtain ⟨t, ht, pushed⟩ := ih (h.push hu) hrest (by simpa using room)
    exact ⟨t, runAll_cons_next.mpr ⟨_, hexec, ht⟩, by simpa using pushed⟩

/-- A run of `PKPUSH` answered with successes has pushed its elements. -/
theorem Pushed.of_allOk {s0 s t : State} {b : Bank} {before values : List Nat} (h : Pushed s0 b before s)
    (run : runAll (values.map .pkpush) s = .next t) (ok : t.AllOkSince s values.length) :
    Pushed s0 b (before ++ values) t := by
  induction values generalizing before s with
  | nil => cases run; simpa using h
  | cons v rest ih =>
    obtain ⟨_, hexec, hok, hrest, hrest_ok⟩ := runAll_cons_allOk run (by simpa using ok)
    obtain ⟨u, hu, rfl⟩ := (exec_answers hexec).completes_of_allOk hok
    simpa using ih (h.push hu) hrest (by simpa using hrest_ok)

/-- From a bank ready for it, `PKBEGIN` and the pushes of elements that fit the width and the capacity succeed. -/
theorem Pushed.of_fits {s : State} {b : Bank} {values : List Nat} (ready : s.ReadyFor b) (configured : 1 ≤ (s.bank b).w)
    (fits : ∀ v ∈ values, v < 2 ^ (s.bank b).w)
    (room : values.length ≤ s.cap b * epw s.params.wordBits (s.bank b).w) :
    ∃ t, runAll (.pkbegin b :: values.map .pkpush) s = .next t ∧ Pushed s b values t := by
  have unset : (s.bank b).w ≠ 0 := Nat.one_le_iff_ne_zero.mp configured
  have opened := Pushed.begin ready.inv (.begin ready.idle ready.opened unset)
  obtain ⟨t, ht, pushed⟩ := opened.pushes fits room
  exact ⟨t, runAll_cons_next.mpr ⟨_, exec_pkbegin_of_opened ready.idle ready.opened unset, ht⟩, pushed⟩

/-- An abort empties the bank and leaves it open. -/
theorem Pushed.aborted {s0 s : State} {b : Bank} {values : List Nat} (h : Pushed s0 b values s) (n : Nat) :
    (s.abortConstruction.failed n).responses =
        ⟨BitVec.ofNat 8 n, 0⟩ :: (List.replicate (values.length + 1) ⟨0#8, 0⟩ ++ s0.responses) ∧
      ((s.abortConstruction.failed n).bank b).nw = 0 ∧ lifecycle (s.abortConstruction.failed n) b = .opened := by
  obtain ⟨inv, active, rfl, -, -, -, -, answers⟩ := h
  refine ⟨?_, by simp, ?_⟩
  · rw [State.responses_failed, State.responses_abortConstruction, answers]
  · rw [lifecycle_idle (by simp)]
    simp [(inv.filling active).opened]

/-! ### A sealed construction -/

/-- `Packed s0 b values t`: from `s0` a construction of `values` on bank `b` was made and sealed, all with success, and
`t` is the state now. -/
structure Packed (s0 : State) (b : Bank) (values : List Nat) (t : State) : Prop where
  inv : t.Inv
  params : t.params = s0.params
  width : (t.bank b).w = (s0.bank b).w
  closed : (t.bank b).isSealed = true
  length : (t.bank b).len = values.length
  words : pack s0.params.wordBits (s0.bank b).w values = .ok ((t.bank b).mem.map Prod.snd)
  others : ∀ c, c ≠ b → t.bank c = s0.bank c
  idle : t.pkActive = false
  answers : t.AllOkSince s0 (values.length + 2)

/-- The words of a bank that holds the array, its last word written, are those of `pack`. -/
theorem Staged.pack_eq {b acc cnt : Nat} {x : BankState} {values : List Nat} (h : Staged b x acc cnt values)
    (h8 : b % 8 = 0) (h1 : 1 ≤ x.w) (h2 : x.w ≤ b) (part : cnt < epw b x.w) {p : Params} {cap : Nat}
    (inv : x.Inv p cap) : pack b x.w values = .ok ((x.completed acc cnt).mem.map Prod.snd) := by
  rw [pack_of_fits h8 h1 h2 h.fits, arrayWords, h.length, BankState.completed]
  split
  · next staged => rw [staged, Nat.add_zero, ceilDiv_mul (epw_pos h8 h1 h2), h.words]
  · next staged => rw [ceilDiv_mul_add (Nat.pos_of_ne_zero staged) part.le, h.words_appended inv]

theorem exists_completes_pkend {s : State} (h : s.Inv) (active : s.pkActive = true) :
    ∃ u, Completes s .pkend u ∧ exec .pkend s = .next (u.ok 0) := by
  rcases Nat.eq_zero_or_pos s.cnt with staged | staged
  · exact ⟨_, .finish active staged, exec_pkend_of_unstaged active staged⟩
  · exact ⟨_, .flushFinish active staged (h.flushWord active staged), exec_pkend_of_staged h active staged⟩

/-- `PKEND` writes the last word of the array and seals it. -/
theorem Pushed.finish {s0 s u : State} {b : Bank} {values : List Nat} (h : Pushed s0 b values s)
    (hu : Completes s .pkend u) : Packed s0 b values (u.ok 0) := by
  obtain ⟨inv, active, rfl, params, width, others, staged, answers⟩ := h
  have hf := inv.filling active
  have hbank := hu.bank_of_pkend
  exact {
    inv := (hu.keeps_inv inv).ok 0
    params := hu.params_eq.trans params
    width := by simp [hbank, width]
    closed := by simp [hbank]
    length := by simpa [hbank] using hf.count.trans staged.length.symm
    words := by
      rw [← params, ← width, State.bank_ok, hbank]
      exact staged.pack_eq inv.legal.2.1 hf.width_pos hf.width_le hf.cnt_lt (inv.bank _)
    others := fun c hc => by rw [State.bank_ok, hu.bank_other_of_pkend hc, others c hc]
    idle := hu.idle_of_pkend
    answers := answers.ok hu.responses_eq }

theorem Packed.of_fits {s : State} {b : Bank} {values : List Nat} (ready : s.ReadyFor b) (configured : 1 ≤ (s.bank b).w)
    (fits : ∀ v ∈ values, v < 2 ^ (s.bank b).w)
    (room : values.length ≤ s.cap b * epw s.params.wordBits (s.bank b).w) :
    ∃ t, runAll (construction b values) s = .next t ∧ Packed s b values t := by
  obtain ⟨m, hm, pushed⟩ := Pushed.of_fits ready configured fits room
  obtain ⟨u, hu, hexec⟩ := exists_completes_pkend pushed.inv pushed.active
  exact ⟨_, runAll_construction_next.mpr ⟨m, hm, hexec⟩, pushed.finish hu⟩

/-- A construction answered with successes is sealed. -/
theorem Packed.of_allOk {s t : State} {b : Bank} {values : List Nat} (h : s.Inv)
    (run : runAll (construction b values) s = .next t) (ok : t.AllOkSince s (values.length + 2)) :
    Packed s b values t := by
  obtain ⟨_, hbegin, hbegin_ok, hrest, hrest_ok⟩ := runAll_cons_allOk run (by simpa using ok)
  obtain ⟨u, hu, rfl⟩ := (exec_answers hbegin).completes_of_allOk hbegin_ok
  obtain ⟨m, hm, hm_ok, hlast, hlast_ok⟩ := runAll_append_allOk hrest hrest_ok
  have pushed := (Pushed.begin h hu).of_allOk hm (by simpa using hm_ok)
  rw [runAll_singleton] at hlast
  obtain ⟨e, he, rfl⟩ := (exec_answers hlast).completes_of_allOk hlast_ok
  exact pushed.finish he

/-! ### The element read back -/

theorem BankState.Inv.length_words {p : Params} {cap : Nat} {x : BankState} (h : x.Inv p cap) :
    (x.mem.map Prod.snd).length = x.nw := by
  simpa using congrArg List.length h.addresses

/-- Word `a` of a bank of the invariant is the `a`-th of its words. -/
theorem State.Inv.word?_eq {s : State} (h : s.Inv) (b : Bank) (a : Nat) :
    s.word? b a = ((s.bank b).mem.map Prod.snd)[a]? := by
  rcases Nat.lt_or_ge a (s.bank b).nw with ha | ha
  · rw [State.word?_of_lt ha, Memory.read_eq_getElem? (h.bank b).addresses]
  · rw [State.word?_of_ge ha, List.getElem?_eq_none ((h.bank b).length_words.trans_le ha)]

/-- An element of a bank of the invariant is what `unpack` gives on its words (42_unpacker.md rule R130). -/
theorem State.Inv.element_of_unpack {s : State} (h : s.Inv) {b : Bank} (configured : 1 ≤ (s.bank b).w) {i v : Nat}
    (hv : unpack s.params.wordBits (s.bank b).w ((s.bank b).mem.map Prod.snd) i = some v) : s.element b i = .ok v := by
  obtain ⟨word, hword, rfl⟩ := Option.map_eq_some_iff.mp hv
  exact State.element_eq_ok.mpr ⟨configured, (h.bank b).width_le, word, (h.word?_eq b _).trans hword, rfl⟩

theorem exec_unpack_of_ge {s : State} {b : Bank} {i : Nat} (closed : (s.bank b).isSealed = true)
    (h : (s.bank b).len ≤ i) : exec (.unpack b i) s = .next (s.failed 2) := by
  rw [exec, execUnpack, if_pos closed, if_pos h]
  rfl

/-- `UNPACK` in a sealed bank of the invariant answers what `unpack` gives on its words (rule R134). -/
theorem exec_unpack_of_unpack {s : State} (h : s.Inv) {b : Bank} {i v : Nat} (closed : (s.bank b).isSealed = true)
    (hi : i < (s.bank b).len)
    (hv : unpack s.params.wordBits (s.bank b).w ((s.bank b).mem.map Prod.snd) i = some v) :
    exec (.unpack b i) s = .next (s.ok v) := by
  have fits : v < 2 ^ s.params.wordBits := by
    obtain ⟨word, -, rfl⟩ := Option.map_eq_some_iff.mp hv
    exact (lane_lt _ _ _).trans_le (Nat.pow_le_pow_right (by decide) (h.bank b).width_le)
  rw [exec, execUnpack, if_pos closed, if_neg (Nat.not_le.mpr hi),
    h.element_of_unpack ((h.bank b).closed closed).1 hv]
  exact s.respond_of_lt fits

end Sys2Proof.Machine
end

section
/-! PROOF. The statements about the packer, its function and the constructions it makes (41_packer.md). -/

namespace Sys2Proof.Proofs

open Sys2Proof.Machine

/-- Settles O24, one lemma per outcome. -/
theorem pkbeginOpensAConstruction : Obligations.PkbeginOpensAConstruction := by
  refine ⟨fun idx data => ⟨decodeCommand_opByte (.pkbegin .key) .., decodeCommand_opByte (.pkbegin .val) ..⟩,
    fun s b => ⟨fun active => exec_pkbegin_of_active active b, fun idle closed => ?_, fun idle opened unset => ?_,
      fun idle opened configured => exec_pkbegin_of_opened idle opened configured⟩⟩
  · rw [exec_pkbegin_of_idle idle, if_pos closed]
  · rw [exec_pkbegin_of_idle idle, opened, if_neg Bool.false_ne_true, if_pos unset]

/-- Settles O25: the element is placed, and the word it completes is appended after those listed. -/
theorem pkpushPlacesOneElement : Obligations.PkpushPlacesOneElement := by
  refine ⟨decodeCommand_opByte (.pkpush 0), fun s v idle => exec_pkpush_of_idle idle v, ?_⟩
  rintro s v w b h active rfl rfl
  refine ⟨exec_pkpush_of_wide h active, exec_pkpush_of_noRoom h active, fun fits room part => ?_,
    fun fits room full => ?_⟩
  · rw [exec_pkpush_of_room h active fits room, if_neg part]
    rfl
  · rw [exec_pkpush_of_room h active fits room, if_pos full, State.flushed, State.bank_placeElement,
      State.pkBank_placeElement, (h.bank s.pkBank).appended_eq]
    cases s.pkBank <;> rfl

/-- Settles O26: the words written are those of the elements pushed by what the invariant says of a sealed bank. -/
theorem pkendSealsTheBank : Obligations.PkendSealsTheBank := by
  refine ⟨decodeCommand_opByte .pkend, fun s => exec_pkend_of_idle, ?_⟩
  rintro s b h active rfl
  refine ⟨exec_pkend_of_unstaged active, fun staged => ?_, fun t ht => ?_⟩
  · rw [exec_pkend_of_staged h active staged, State.sealConstruction_flushed, (h.bank s.pkBank).appended_eq]
    rfl
  · have closed : (t.bank s.pkBank).isSealed = true := by
      rcases Nat.eq_zero_or_pos s.cnt with staged | staged
      · cases (exec_pkend_of_unstaged active staged).symm.trans ht
        simp
      · cases (exec_pkend_of_staged h active staged).symm.trans ht
        simp
    exact (((exec_keeps_inv h ht).bank s.pkBank).closed closed).2

/-- Settles O34: the frame of each form of an answer. -/
theorem frameOfPackerCommands : Obligations.FrameOfPackerCommands := by
  refine ⟨fun b s t h => ?_, fun v s t h => ?_, fun s t h => ?_⟩
  · cases exec_answers h with
    | ok d done =>
      cases done with
      | read reads => cases reads
      | begin =>
        refine ⟨by simp, by simp, fun c hc => ?_, by simp, by simp, by simp, fun r _ _ => ?_, fun r hr herr => ?_⟩
        · have hbank : ((s.openPacker b).ok d).bank c = s.bank c := s.bank_openPacker_other hc
          exact ⟨hbank, State.word?_of_bank_eq hbank⟩
        · exact ⟨by simp, fun a => State.word?_of_ge (by simp)⟩
        · exact absurd (State.status_ok hr) herr
    | refused code =>
      exact ⟨rfl, rfl, fun c _ => ⟨by simp, fun a => by simp⟩, by simp, by simp, by simp,
        fun r hr hok => absurd hok (State.status_failed code hr), fun _ _ _ => rfl⟩
  · cases exec_answers h with
    | ok d done =>
      obtain ⟨hactive, hbank⟩ := done.packer_of_pkpush
      have active := done.active_of_pkpush
      refine ⟨done.params_eq, done.port_eq, fun c hc => ?_, fun c => ?_, fun idle => ?_, fun r _ _ => ?_,
        fun _ c a elsewhere => ?_, fun _ part c a => ?_, fun ended => absurd hactive ended⟩
      · rw [State.bank_ok, done.bank_other_of_pkpush hc]
      · simpa using done.config_of_pkpush c
      · simp [active] at idle
      · exact ⟨done.err_eq nofun, hactive.trans active, hbank⟩
      · simpa using done.word?_of_pkpush (.inl elsewhere)
      · simpa using done.word?_of_pkpush (.inr part)
    | refused code not_rst idle =>
      exact ⟨rfl, rfl, fun c _ => by simp, fun c => by simp, fun _ => rfl,
        fun r hr hok => absurd hok (State.status_failed code hr), fun _ c a _ => by simp, fun _ _ c a => by simp,
        fun ended => absurd rfl ended⟩
    | @aborted _ n code active =>
      have hother : ∀ c, c ≠ s.pkBank → (s.abortConstruction.failed n).bank c = s.bank c :=
        fun c hc => s.bank_abortConstruction_other hc
      have ended : (s.abortConstruction.failed n).pkActive ≠ s.pkActive := by simp [active]
      refine ⟨by simp, by simp, hother, fun c => ?_, fun idle => ?_,
        fun r hr hok => absurd hok (State.status_failed code hr), fun kept => absurd kept ended,
        fun kept => absurd kept ended, fun _ => ⟨fun a => State.word?_of_ge (by simp),
          fun c a hc => State.word?_of_bank_eq (hother c hc) a⟩⟩
      · by_cases hc : c = s.pkBank
        · simp [hc]
        · simp [hother c hc]
      · simp [active] at idle
  · cases exec_answers h with
    | ok d done =>
      refine ⟨done.params_eq, done.port_eq, fun c hc => ?_, ?_, fun idle => ?_, fun _ => done.err_eq nofun,
        fun c a elsewhere => ?_, fun unstaged c a => ?_⟩
      · rw [State.bank_ok, done.bank_other_of_pkend hc]
      · simp [done.bank_of_pkend]
      · simp [done.active_of_pkend] at idle
      · simpa using done.word?_of_pkend (.inl elsewhere)
      · simpa using done.word?_of_pkend (.inr (unstaged.resolve_left (by simp [done.active_of_pkend])))
    | refused code not_rst idle =>
      exact ⟨rfl, rfl, fun c _ => by simp, by simp, fun _ => rfl,
        fun active => absurd active (by simp [idle (.inr rfl)]), fun c a _ => by simp, fun _ c a => by simp⟩

/-- Settles O49: the words are those of the closed form, whose lanes are the elements. -/
theorem unpackOfPackIsTheElement : Obligations.UnpackOfPackIsTheElement := by
  intro b w values _ h8 h1 h2
  refine ⟨fun ws h => ?_, fun fits => ⟨_, pack_of_fits h8 h1 h2 fits⟩, pack_of_wide⟩
  obtain ⟨fits, rfl⟩ := pack_eq_ok h8 h1 h2 h
  refine ⟨length_packedWords .., fun x hx => ?_, fun i v => unpack_of_pack h8 h1 h2 h⟩
  obtain ⟨q, -, rfl⟩ := List.mem_map.mp hx
  exact packWord_lt h1 fun j _ => elementsOfWord_lt fits b q j

/-- Settles O51: what a construction leaves is `Packed`. -/
theorem streamEqualsPack : Obligations.StreamEqualsPack := by
  rintro s b w values ready rfl configured fits room
  obtain ⟨t, run, packed⟩ := Packed.of_fits ready configured fits ((ceilDiv_le_iff (ready.epw_pos configured)).mp room)
  refine ⟨t, _, run, packed.words, packed.answers, packed.closed, packed.length,
    (packed.inv.bank b).length_words.symm, fun q _ => packed.inv.word?_eq b q, packed.others, packed.idle⟩

/-- Settles O52: the values before the one that does not fit are pushed, its push aborts, and no construction is open
for the rest. -/
theorem streamFailsWherePackFails : Obligations.StreamFailsWherePackFails := by
  rintro s b w v before after ready rfl configured fits wide room
  rw [ceilDiv_le_iff (ready.epw_pos configured)] at room
  refine ⟨pack_of_wide ⟨v, by simp, wide⟩, ?_⟩
  obtain ⟨m, hm, pushed⟩ := Pushed.of_fits (values := before) ready configured fits (Nat.le_trans (by simp) room)
  have abort : exec (.pkpush v) m = .next (m.abortConstruction.failed 1) :=
    exec_pkpush_of_wide pushed.inv pushed.active (by rwa [pushed.bank, pushed.width])
  obtain ⟨e, rest⟩ := runAll_of_idle (cmds := after.map .pkpush ++ [.pkend]) (s := m.abortConstruction.failed 1)
    (fun i hi => (List.mem_append.mp hi).imp (fun h => (List.mem_map.mp h).imp fun _ hv => hv.2.symm)
      List.mem_singleton.mp) (by simp)
  have run := runAll_append_next.mpr ⟨m, hm, runAll_cons_next.mpr ⟨_, abort, rest⟩⟩
  rw [← construction_append] at run
  obtain ⟨responses, empty, opened⟩ := pushed.aborted 1
  refine ⟨_, run, ?_, by simpa using empty, by simpa using opened⟩
  rw [State.responses_withErr, responses]
  simp

/-- Settles O53: the elements before number `CAP * EPW` fill the bank. -/
theorem streamBeyondCapacityAborts : Obligations.StreamBeyondCapacityAborts := by
  rintro s b w n values ready rfl configured fits beyond capacity
  have epw_pos := ready.epw_pos configured
  have hn : n < values.length := by rwa [capacity, ← Nat.not_le, ← ceilDiv_le_iff epw_pos, Nat.not_le]
  refine ⟨hn, ?_⟩
  obtain ⟨m, hm, pushed⟩ := Pushed.of_fits (values := values.take n) ready configured
    (fun v hv => fits v (List.mem_of_mem_take hv)) (by simp [capacity])
  have full : (m.bank m.pkBank).nw = m.cap m.pkBank := by
    rw [pushed.bank, pushed.nw_eq, pushed.cap_eq, List.length_take_of_le hn.le, capacity, Nat.mul_div_cancel _ epw_pos]
  have abort : exec (.pkpush values[n]) m = .next (m.abortConstruction.failed 9) :=
    exec_pkpush_of_noRoom pushed.inv pushed.active
      (by simpa only [pushed.bank, pushed.width] using fits _ (List.getElem_mem hn)) full
  have run := runAll_append_next.mpr ⟨m, hm, (runAll_singleton _ _).trans abort⟩
  rw [← pkbegin_take_succ] at run
  have aborted := pushed.aborted 9
  rw [List.length_take_of_le hn.le] at aborted
  exact ⟨_, run, aborted⟩

/-- Settles O54: the bank holds the words of `pack`, and `unpack` gives every element back from them. -/
theorem packedBankRoundTrip : Obligations.PackedBankRoundTrip := by
  intro s t b values ready run ok
  have packed := Packed.of_allOk ready.inv run ok
  refine ⟨fun i v hi => ?_, fun i hi => exec_unpack_of_ge packed.closed (packed.length.trans_le hi)⟩
  have hlt : i < values.length := (List.getElem?_eq_some_iff.mp hi).1
  refine exec_unpack_of_unpack packed.inv packed.closed (hlt.trans_eq packed.length.symm) ?_
  have hb := packed.inv.bank b
  have configured := (hb.closed packed.closed).1
  have pack_eq := packed.words
  rw [← packed.params, ← packed.width] at pack_eq
  exact unpack_of_pack packed.inv.legal.2.1 configured hb.width_le pack_eq hi

end Sys2Proof.Proofs
end

section
/-! SUPPORT. The byte procedure of `unpack` reads the lane of the closed form: the accumulator of a group is a run of
bits of the word (42_unpacker.md rule R130, 20_memory.md rules R64 to R67). -/

namespace Sys2Proof.Machine

/-! ### The accumulator of a group -/

/-- Step c of rule R130: the bytes most significant first, reversed, are the bytes from bit 0 up. -/
theorem reversedByte_wordByteBigEndian {b s : Nat} (hs : s < b / 8) (word : Nat) :
    reversedByte b (wordByteBigEndian b word) s = (word >>> (8 * s)) % 256 := by
  have twice : b / 8 - 1 - (b / 8 - 1 - s) = s := by omega
  rw [reversedByte, wordByteBigEndian, twice]

/-- The bytes of a group are bytes of the word. -/
theorem group_byte_lt {b w g t : Nat} (hg : g < groupsPerWord b w) (ht : t < groupBytes b w) :
    g * groupBytes b w + t < b / 8 :=
  calc g * groupBytes b w + t < (g + 1) * groupBytes b w := by rw [Nat.succ_mul]; omega
    _ ≤ groupsPerWord b w * groupBytes b w := Nat.mul_le_mul_right _ hg
    _ ≤ b / 8 := Nat.div_mul_le_self _ _

/-- Step d of rule R130: the accumulator of group `g` is the run of bits that the group's bytes take in the word. -/
theorem groupAccOfBytes_eq {b w g : Nat} (hg : g < groupsPerWord b w) (word : Nat) :
    groupAccOfBytes b w (reversedByte b (wordByteBigEndian b word)) g =
      (word >>> (g * (8 * groupBytes b w))) % 2 ^ (8 * groupBytes b w) := by
  have bytes : groupAccOfBytes b w (reversedByte b (wordByteBigEndian b word)) g =
      sumTo (groupBytes b w) fun t => ((word >>> (8 * (g * groupBytes b w + t))) % 256) <<< (t * 8) :=
    sumTo_congr fun t ht => by rw [reversedByte_wordByteBigEndian (group_byte_lt hg ht), Nat.mul_comm 8 t]
  refine Nat.eq_of_testBit_eq fun m => ?_
  have position : 8 * (g * groupBytes b w + m / 8) + m % 8 = g * (8 * groupBytes b w) + m := by
    rw [Nat.mul_add, Nat.add_assoc, Nat.div_add_mod, Nat.mul_left_comm]
  have byte : ∀ t, t < groupBytes b w → (word >>> (8 * (g * groupBytes b w + t))) % 256 < 2 ^ 8 :=
    fun _ _ => Nat.mod_lt _ (by decide)
  rw [bytes, testBit_sumTo_lanes (by decide) byte, Nat.testBit_mod_two_pow (j := 8), Nat.testBit_mod_two_pow,
    Nat.testBit_shiftRight, Nat.testBit_shiftRight, position]
  have inside : m / 8 < groupBytes b w ↔ m < 8 * groupBytes b w := by omega
  simp [inside, Nat.mod_lt]

/-- Group `g` begins at the bit of its first element: groups take whole bytes, or there is only one. -/
theorem group_first_bit {b w g : Nat} (h8 : b % 8 = 0) (h1 : 1 ≤ w) (h2 : w ≤ b) (hg : g < groupsPerWord b w) :
    g * (8 * groupBytes b w) = g * groupSize b w * w := by
  obtain ⟨-, whole⟩ | ⟨-, capped⟩ := group_cases b w
  · rw [whole, Nat.mul_assoc]
  · rw [groupsPerWord_capped h8 h1 h2 capped, Nat.lt_one_iff] at hg
    simp [hg]

/-! ### Lanes -/

/-- A lane within the low `c` bits depends on them alone. -/
theorem lane_mod_two_pow {w k c : Nat} (h : k * w + w ≤ c) (x : Nat) : lane w (x % 2 ^ c) k = lane w x k := by
  refine Nat.eq_of_testBit_eq fun m => ?_
  rw [lane, lane, mask, Nat.testBit_and, Nat.testBit_and, Nat.testBit_two_pow_sub_one, Nat.testBit_shiftRight,
    Nat.testBit_shiftRight, Nat.testBit_mod_two_pow]
  by_cases hm : m < w
  · have low : k * w + m < c := by omega
    simp [low]
  · simp [hm]

theorem lane_shiftRight (w x j k : Nat) : lane w (x >>> (j * w)) k = lane w x (j + k) := by
  rw [lane, lane, ← Nat.shiftRight_add, Nat.add_mul]

/-- The lane of an element is its group's first lane and its place in the group (rule R67). -/
theorem group_add_place (b w i : Nat) :
    groupInWord b w i * groupSize b w + i % groupSize b w = offsetInWord b w i := by
  have place : i % groupSize b w = offsetInWord b w i % groupSize b w :=
    (Nat.mod_mod_of_dvd i (Dvd.intro _ rfl)).symm
  rw [place, groupInWord, Nat.div_add_mod']

theorem groupInWord_lt {b w : Nat} (h8 : b % 8 = 0) (h1 : 1 ≤ w) (h2 : w ≤ b) (i : Nat) :
    groupInWord b w i < groupsPerWord b w :=
  Nat.div_lt_of_lt_mul (Nat.mod_lt i (epw_pos h8 h1 h2))

/-- An element of a group lies within the group's bytes. -/
theorem lane_in_group {b w k : Nat} (hk : k < groupSize b w) : k * w + w ≤ 8 * groupBytes b w :=
  calc k * w + w = (k + 1) * w := (Nat.succ_mul k w).symm
    _ ≤ groupSize b w * w := Nat.mul_le_mul_right w hk
    _ ≤ 8 * groupBytes b w := groupSize_mul_le_groupBytes b w

/-- Element `i` by the byte procedure of rule R130 is the lane of the closed form. -/
theorem laneByBytes_eq {b w : Nat} (h8 : b % 8 = 0) (h1 : 1 ≤ w) (h2 : w ≤ b) (word i : Nat) :
    laneByBytes b w word i = lane w word (offsetInWord b w i) := by
  have hg := groupInWord_lt h8 h1 h2 i
  have hk : i % groupSize b w < groupSize b w := Nat.mod_lt i (groupSize_pos h1 h2)
  calc laneByBytes b w word i
      = lane w (groupAccOfBytes b w (reversedByte b (wordByteBigEndian b word)) (groupInWord b w i))
          (i % groupSize b w) := rfl
    _ = lane w (word >>> (groupInWord b w i * groupSize b w * w)) (i % groupSize b w) := by
      rw [groupAccOfBytes_eq hg, lane_mod_two_pow (lane_in_group hk), group_first_bit h8 h1 h2 hg]
    _ = lane w word (offsetInWord b w i) := by rw [lane_shiftRight, group_add_place]

/-! ### The function `unpack` -/

/-- `unpack` is defined where the word exists (rule R130). -/
theorem unpack_of_lt {b w : Nat} {words : List Nat} {i : Nat} (h : wordIndex b w i < words.length) :
    unpack b w words i = some (lane w words[wordIndex b w i] (offsetInWord b w i)) := by
  rw [unpack, List.getElem?_eq_getElem h, Option.map_some]

/-- What `unpack` gives is below `2^W`, whatever the words are (rule R136 (e)). -/
theorem unpack_lt {b w : Nat} {words : List Nat} {i v : Nat} (h : unpack b w words i = some v) : v < 2 ^ w := by
  obtain ⟨word, -, rfl⟩ := Option.map_eq_some_iff.mp h
  exact lane_lt w word _

end Sys2Proof.Machine
end

section
/-! SUPPORT. What `LDWORD`, `SEAL`, `RDWORD` and `UNPACK` do, case by case from the checks they pass
(42_unpacker.md rules R131 to R134). -/

namespace Sys2Proof.Machine

/-! ### `LDWORD` (rule R131) -/

theorem exec_ldword_of_active {s : State} (active : s.pkActive = true) (b : Bank) (v : Nat) :
    exec (.ldword b v) s = .next (s.failed 7) := if_pos active

theorem exec_ldword_of_sealed {s : State} (idle : s.pkActive = false) {b : Bank} (closed : (s.bank b).isSealed = true)
    (v : Nat) : exec (.ldword b v) s = .next (s.failed 5) := by
  rw [exec, execLdword, idle, if_neg Bool.false_ne_true, if_pos closed]
  rfl

theorem exec_ldword_of_full {s : State} (idle : s.pkActive = false) {b : Bank} (opened : (s.bank b).isSealed = false)
    (full : (s.bank b).nw = s.cap b) (v : Nat) : exec (.ldword b v) s = .next (s.failed 9) := by
  rw [exec, execLdword, idle, if_neg Bool.false_ne_true, opened, if_neg Bool.false_ne_true, if_pos full]
  rfl

theorem exec_ldword_of_room {s : State} (idle : s.pkActive = false) {b : Bank} (opened : (s.bank b).isSealed = false)
    (room : (s.bank b).nw < s.cap b) {v : Nat} (fits : v < 2 ^ s.params.wordBits) :
    exec (.ldword b v) s = .next ((s.setBank b ((s.bank b).appended v)).ok 0) := by
  rw [exec, execLdword, idle, if_neg Bool.false_ne_true, opened, if_neg Bool.false_ne_true, if_neg room.ne,
    State.appendWord_of_room room fits]
  exact State.respond_zero _

/-! ### `SEAL` (rule R132) -/

theorem exec_sealBank_of_active {s : State} (active : s.pkActive = true) (b : Bank) :
    exec (.sealBank b) s = .next (s.failed 7) := if_pos active

theorem exec_sealBank_of_sealed {s : State} (idle : s.pkActive = false) {b : Bank}
    (closed : (s.bank b).isSealed = true) : exec (.sealBank b) s = .next (s.failed 5) := by
  rw [exec, execSealBank, idle, if_neg Bool.false_ne_true, if_pos closed]
  rfl

theorem exec_sealBank_of_unset {s : State} (idle : s.pkActive = false) {b : Bank}
    (opened : (s.bank b).isSealed = false) (unset : (s.bank b).w = 0) :
    exec (.sealBank b) s = .next (s.failed 8) := by
  rw [exec, execSealBank, idle, if_neg Bool.false_ne_true, opened, if_neg Bool.false_ne_true, if_pos unset]
  rfl

/-- An open bank with a width is sealed where its words are as many as its length asks for (20_memory.md rule R73). -/
theorem exec_sealBank_of_configured {s : State} (idle : s.pkActive = false) {b : Bank}
    (opened : (s.bank b).isSealed = false) (h1 : 1 ≤ (s.bank b).w) (h2 : (s.bank b).w ≤ s.params.wordBits) :
    exec (.sealBank b) s =
      if (s.bank b).nw ≠ ceilDiv (s.bank b).len (epw s.params.wordBits (s.bank b).w) then .next (s.failed 10)
      else .next ((s.setBank b { s.bank b with isSealed := true }).ok 0) := by
  rw [exec, execSealBank, idle, if_neg Bool.false_ne_true, opened, if_neg Bool.false_ne_true,
    if_neg (Nat.ne_of_gt h1), State.width?_of_range h1 h2, State.respond_zero]
  rfl

/-! ### `RDWORD` (rule R133) -/

theorem exec_rdword_of_ge {s : State} {b : Bank} {a : Nat} (h : (s.bank b).nw ≤ a) :
    exec (.rdword b a) s = .next (s.failed 11) := if_pos h

/-- In a bank of the invariant every address below `NW` has a word of `B` bits (10_state.md rule R31). -/
theorem State.Inv.exists_word {s : State} (h : s.Inv) {b : Bank} {a : Nat} (ha : a < (s.bank b).nw) :
    ∃ word, (a, word) ∈ (s.bank b).mem ∧ s.word? b a = some word ∧ word < 2 ^ s.params.wordBits := by
  have listed : a ∈ (s.bank b).mem.map Prod.fst := by
    rw [(h.bank b).addresses]
    exact List.mem_range.mpr ha
  obtain ⟨word, hread⟩ := Memory.read_isSome listed
  have hmem := Memory.mem_of_read hread
  exact ⟨word, hmem, (State.word?_of_lt ha).trans hread, (h.bank b).words _ hmem⟩

theorem exec_rdword_of_word {s : State} {b : Bank} {a word : Nat} (hword : s.word? b a = some word)
    (fits : word < 2 ^ s.params.wordBits) : exec (.rdword b a) s = .next (s.ok word) := by
  have ha : ¬ a ≥ (s.bank b).nw := fun h => by simp [State.word?_of_ge h] at hword
  rw [exec, execRdword, if_neg ha, hword]
  exact s.respond_of_lt fits

/-! ### `UNPACK` (rule R134) -/

theorem exec_unpack_of_opened {s : State} {b : Bank} (opened : (s.bank b).isSealed = false) (i : Nat) :
    exec (.unpack b i) s = .next (s.failed 6) := if_neg (by simp [opened])

/-- In a sealed bank of the invariant every index below `LEN` has its word below `NW` (20_memory.md rule R76). -/
theorem State.Inv.wordIndex_lt_nw {s : State} (h : s.Inv) {b : Bank} (closed : (s.bank b).isSealed = true) {i : Nat}
    (hi : i < (s.bank b).len) : wordIndex s.params.wordBits (s.bank b).w i < (s.bank b).nw := by
  obtain ⟨configured, length⟩ := (h.bank b).closed closed
  rw [length]
  exact wordIndex_lt_arrayWords (epw_pos h.legal.2.1 configured (h.bank b).width_le) hi

/-- The element of an index below `LEN` in a sealed bank of the invariant is a lane of the word listed for it. -/
theorem State.Inv.exists_unpack {s : State} (h : s.Inv) {b : Bank} (closed : (s.bank b).isSealed = true) {i : Nat}
    (hi : i < (s.bank b).len) :
    ∃ word, (wordIndex s.params.wordBits (s.bank b).w i, word) ∈ (s.bank b).mem ∧
      unpack s.params.wordBits (s.bank b).w ((s.bank b).mem.map Prod.snd) i =
        some (lane (s.bank b).w word (offsetInWord s.params.wordBits (s.bank b).w i)) := by
  obtain ⟨word, hmem, hword, -⟩ := h.exists_word (h.wordIndex_lt_nw closed hi)
  refine ⟨word, hmem, ?_⟩
  rw [unpack, ← h.word?_eq b, hword, Option.map_some]

end Sys2Proof.Machine
end

section
/-! SUPPORT. The one bank that `LDWORD`, `SEAL` and `CSRW` change, and what they leave of it (42_unpacker.md rules R131,
R132; 44_system.md rule R167). -/

namespace Sys2Proof.Machine

/-! ### A `CSRW` that completes -/

/-- The number of the register a target is (10_state.md rule R23). -/
def targetNumber : CsrTarget → Fin 16
  | .width b => widthCsr b
  | .length b => lengthCsr b

/-- The read-write registers are those of the four targets. -/
theorem bind_csrTarget_eq_some {c : Fin 16} {g : CsrTarget} :
    (csrOfNumber c).bind csrTarget = some g ↔ c = targetNumber g := by
  obtain b | b := g <;> cases b <;> revert c <;> decide

theorem Completes.of_csrw {s u : State} {c : Fin 16} {v : Nat} (hu : Completes s (.csrw c v) u) :
    ∃ g, c = targetNumber g ∧ u = s.writeTarget g v := by
  cases hu with
  | read reads => cases reads
  | write target => exact ⟨_, bind_csrTarget_eq_some.mp target, rfl⟩

/-- A write changes the register it names, in the bank of its target. -/
theorem Completes.bank_of_csrw {s u : State} {g : CsrTarget} {v : Nat}
    (hu : Completes s (.csrw (targetNumber g) v) u) :
    u.bank (targetBank g) = (s.bank (targetBank g)).written v g := by
  obtain ⟨g', hg, rfl⟩ := hu.of_csrw
  obtain rfl : g = g' := Option.some.inj <| (bind_csrTarget_eq_some.mpr rfl).symm.trans (bind_csrTarget_eq_some.mpr hg)
  rw [State.writeTarget_eq, State.bank_setBank_same]

/-- Whatever the target, a write changes of each bank the width or the length at most. -/
theorem State.bank_writeTarget (s : State) (g : CsrTarget) (v : Nat) (b : Bank) :
    ∃ w len, (s.writeTarget g v).bank b = { s.bank b with w := w, len := len } := by
  rw [State.writeTarget_eq]
  by_cases hb : b = targetBank g
  · subst hb
    rw [State.bank_setBank_same]
    cases g with
    | width c => exact ⟨v, (s.bank c).len, rfl⟩
    | length c => exact ⟨(s.bank c).w, v, rfl⟩
  · exact ⟨_, _, State.bank_setBank_other s _ hb⟩

/-- The registers written are no part of the words. -/
theorem State.word?_writeTarget (s : State) (g : CsrTarget) (v : Nat) (b : Bank) (a : Nat) :
    (s.writeTarget g v).word? b a = s.word? b a := by
  obtain ⟨w, len, bank⟩ := s.bank_writeTarget g v b
  exact State.word?_congr (by rw [bank]) (by rw [bank]) a

/-- A write leaves the three registers it does not name as they are. -/
theorem State.registers_writeTarget (s : State) (g : CsrTarget) (v : Nat) :
    (targetNumber g ≠ 4 → (s.writeTarget g v).key.w = s.key.w) ∧
      (targetNumber g ≠ 5 → (s.writeTarget g v).val.w = s.val.w) ∧
      (targetNumber g ≠ 6 → (s.writeTarget g v).key.len = s.key.len) ∧
      (targetNumber g ≠ 7 → (s.writeTarget g v).val.len = s.val.len) := by
  obtain (_ | _) | (_ | _) := g
  · exact ⟨fun named => absurd rfl named, fun _ => rfl, fun _ => rfl, fun _ => rfl⟩
  · exact ⟨fun _ => rfl, fun named => absurd rfl named, fun _ => rfl, fun _ => rfl⟩
  · exact ⟨fun _ => rfl, fun _ => rfl, fun named => absurd rfl named, fun _ => rfl⟩
  · exact ⟨fun _ => rfl, fun _ => rfl, fun _ => rfl, fun named => absurd rfl named⟩

/-! ### An `LDWORD` and a `SEAL` that complete -/

theorem Completes.eq_of_ldword {s u : State} {b : Bank} {v : Nat} (hu : Completes s (.ldword b v) u) :
    u = s.setBank b ((s.bank b).appended v) := by
  cases hu with
  | read reads => cases reads
  | load => rfl

theorem Completes.eq_of_sealBank {s u : State} {b : Bank} (hu : Completes s (.sealBank b) u) :
    u = s.setBank b { s.bank b with isSealed := true } := by
  cases hu with
  | read reads => cases reads
  | close => rfl

/-- A command that changes one bank and answers leaves the packer, the parameters and what is presented. -/
theorem State.frame_ok_setBank {s t : State} {b : Bank} {x : BankState} {d : Nat} (h : t = (s.setBank b x).ok d) :
    t = { s with key := t.key, val := t.val, err := t.err, responses := t.responses } := by
  subst h
  cases b <;> rfl

/-- The seal is no part of the words. -/
theorem State.word?_setBank_isSealed (s : State) (b : Bank) (closed : Bool) (c : Bank) (a : Nat) :
    (s.setBank b { s.bank b with isSealed := closed }).word? c a = s.word? c a := by
  by_cases hc : c = b
  · subst hc
    exact State.word?_congr (by simp) (by simp) a
  · exact State.word?_of_bank_eq (State.bank_setBank_other s _ hc) a

end Sys2Proof.Machine
end

section
/-! SUPPORT. A `LOAD` leaves its bank with the words loaded and the width and the length written before them
(30_encoding.md rule R102, 42_unpacker.md rule R136). -/

namespace Sys2Proof.Machine

/-- `Loaded s0 b w n words s`: the block of `s0` is now in state `s`, where bank `b` has the width `w`, the length
`n` and exactly the words `words`. -/
structure Loaded (s0 : State) (b : Bank) (w n : Nat) (words : List Nat) (s : State) : Prop where
  inv : s.Inv
  params : s.params = s0.params
  width : (s.bank b).w = w
  length : (s.bank b).len = n
  words : (s.bank b).mem.map Prod.snd = words

/-- The two writes that open a `LOAD` leave an empty bank empty. -/
theorem Loaded.begin {s u u' : State} {b : Bank} {w n : Nat} (h : s.Inv) (empty : (s.bank b).nw = 0)
    (hu : Completes s (.csrw (widthCsr b) w) u) (hu' : Completes (u.ok 0) (.csrw (lengthCsr b) n) u') :
    Loaded s b w n [] (u'.ok 0) := by
  have no_words : (s.bank b).mem = [] := by
    rw [← List.map_eq_nil_iff (f := Prod.snd), ← List.length_eq_zero_iff, (h.bank b).length_words, empty]
  have width : u.bank b = { s.bank b with w := w } := hu.bank_of_csrw (g := .width b)
  have length : u'.bank b = { (u.ok 0).bank b with len := n } := hu'.bank_of_csrw (g := .length b)
  rw [State.bank_ok, width] at length
  exact {
    inv := (hu'.keeps_inv ((hu.keeps_inv h).ok 0)).ok 0
    params := hu'.params_eq.trans hu.params_eq
    width := by simp [length]
    length := by simp [length]
    words := by simp [length, no_words] }

theorem Loaded.load {s0 s u : State} {b : Bank} {w n v : Nat} {words : List Nat} (h : Loaded s0 b w n words s)
    (hu : Completes s (.ldword b v) u) : Loaded s0 b w n (words ++ [v]) (u.ok 0) := by
  have bank : u.bank b = (s.bank b).appended v := by rw [hu.eq_of_ldword, State.bank_setBank_same]
  exact {
    inv := (hu.keeps_inv h.inv).ok 0
    params := hu.params_eq.trans h.params
    width := by simp [bank, h.width]
    length := by simp [bank, h.length]
    words := by simp [bank, (h.inv.bank b).appended_eq, h.words] }

/-- A run of `LDWORD` answered with successes has loaded its words. -/
theorem Loaded.of_allOk {s0 s t : State} {b : Bank} {w n : Nat} {before words : List Nat}
    (h : Loaded s0 b w n before s) (run : runAll (words.map (.ldword b)) s = .next t)
    (ok : t.AllOkSince s words.length) : Loaded s0 b w n (before ++ words) t := by
  induction words generalizing before s with
  | nil => cases run; simpa using h
  | cons v rest ih =>
    obtain ⟨_, hexec, hok, hrest, hrest_ok⟩ := runAll_cons_allOk run (by simpa using ok)
    obtain ⟨u, hu, rfl⟩ := (exec_answers hexec).completes_of_allOk hok
    simpa using ih (h.load hu) hrest (by simpa using hrest_ok)

theorem Loaded.close {s0 s u : State} {b : Bank} {w n : Nat} {words : List Nat} (h : Loaded s0 b w n words s)
    (hu : Completes s (.sealBank b) u) :
    Loaded s0 b w n words (u.ok 0) ∧ ((u.ok 0).bank b).isSealed = true := by
  have bank : u.bank b = { s.bank b with isSealed := true } := by rw [hu.eq_of_sealBank, State.bank_setBank_same]
  refine ⟨?_, by simp [bank]⟩
  exact {
    inv := (hu.keeps_inv h.inv).ok 0
    params := hu.params_eq.trans h.params
    width := by simp [bank, h.width]
    length := by simp [bank, h.length]
    words := by simp [bank, h.words] }

/-- A `LOAD` into an empty bank that is answered with successes has loaded its words and sealed the bank. -/
theorem Loaded.of_loadCommands {s t : State} {b : Bank} {w n : Nat} {words : List Nat} (h : s.Inv)
    (empty : (s.bank b).nw = 0) (run : runAll (loadCommands b w n words) s = .next t)
    (ok : t.AllOkSince s (words.length + 3)) : Loaded s b w n words t ∧ (t.bank b).isSealed = true := by
  obtain ⟨_, hwidth, hwidth_ok, run, ok⟩ := runAll_cons_allOk run (by simpa using ok)
  obtain ⟨u, hu, rfl⟩ := (exec_answers hwidth).completes_of_allOk hwidth_ok
  obtain ⟨_, hlength, hlength_ok, run, ok⟩ := runAll_cons_allOk run ok
  obtain ⟨u', hu', rfl⟩ := (exec_answers hlength).completes_of_allOk hlength_ok
  obtain ⟨m, hm, hm_ok, hlast, hlast_ok⟩ := runAll_append_allOk run ok
  have loaded := (Loaded.begin h empty hu hu').of_allOk hm (by simpa using hm_ok)
  rw [runAll_singleton] at hlast
  obtain ⟨e, he, rfl⟩ := (exec_answers hlast).completes_of_allOk hlast_ok
  exact loaded.close he

/-- The width written is one the layout functions are meant for: the invariant says so of a sealed bank. -/
theorem Loaded.width_range {s t : State} {b : Bank} {w n : Nat} {words : List Nat} (h : Loaded s b w n words t)
    (closed : (t.bank b).isSealed = true) : 1 ≤ w ∧ w ≤ s.params.wordBits := by
  obtain ⟨inv, params, rfl, -, -⟩ := h
  exact ⟨((inv.bank b).closed closed).1, params ▸ (inv.bank b).width_le⟩

/-- `UNPACK` in a loaded and sealed bank answers what `unpack` gives on the words loaded (rule R136 (c)). -/
theorem Loaded.exec_unpack {s t : State} {b : Bank} {w n : Nat} {words : List Nat} (h : Loaded s b w n words t)
    (closed : (t.bank b).isSealed = true) {i v : Nat} (hi : i < n)
    (hv : unpack s.params.wordBits w words i = some v) : exec (.unpack b i) t = .next (t.ok v) := by
  obtain ⟨inv, params, rfl, rfl, rfl⟩ := h
  exact exec_unpack_of_unpack inv closed hi (params ▸ hv)

end Sys2Proof.Machine
end

section
/-! PROOF. The statements about the unpacker, its function and its commands (42_unpacker.md). -/

namespace Sys2Proof.Proofs

open Sys2Proof.Machine

/-- Settles O48: the accumulator of the element's group is a run of bits of the word, and the element is its lane. -/
theorem unpackByBytesIsTheClosedForm : Obligations.UnpackByBytesIsTheClosedForm := by
  intro b w words i _ h8 h1 h2 _
  refine ⟨?_, fun v => unpack_lt, fun h => ⟨_, unpack_of_lt h⟩⟩
  rw [unpackByBytes, unpack]
  congr 1
  funext word
  exact laneByBytes_eq h8 h1 h2 word i

/-- Settles O27, one lemma per outcome; in a bank of the invariant the word is appended after those listed. -/
theorem ldwordAppendsOneWord : Obligations.LdwordAppendsOneWord := by
  refine ⟨fun idx data => ⟨decodeCommand_opByte (.ldword .key 0) .., decodeCommand_opByte (.ldword .val 0) ..⟩,
    fun s b v => ⟨fun active => exec_ldword_of_active active b v,
      fun idle closed => exec_ldword_of_sealed idle closed v,
      fun idle opened full => exec_ldword_of_full idle opened full v, fun h idle opened room fits => ?_⟩⟩
  rw [exec_ldword_of_room idle opened (Nat.lt_of_le_of_ne (h.bank b).nw_le room) fits, (h.bank b).appended_eq]

/-- Settles O28, one lemma per outcome of the checks before the length. -/
theorem sealChecksTheLength : Obligations.SealChecksTheLength := by
  refine ⟨fun idx data => ⟨decodeCommand_opByte (.sealBank .key) .., decodeCommand_opByte (.sealBank .val) ..⟩,
    fun s b => ⟨fun active => exec_sealBank_of_active active b,
      fun idle closed => exec_sealBank_of_sealed idle closed,
      fun idle opened unset => exec_sealBank_of_unset idle opened unset, fun idle opened h1 h2 wrong => ?_,
      fun idle opened h1 h2 right => ?_⟩⟩
  · rw [exec_sealBank_of_configured idle opened h1 h2, if_pos wrong]
  · rw [exec_sealBank_of_configured idle opened h1 h2, if_neg (not_not_intro right)]

/-- Settles O29: below `NW` the invariant lists a word at every address. -/
theorem rdwordReadsOneWord : Obligations.RdwordReadsOneWord := by
  refine ⟨fun idx data => ⟨decodeCommand_opByte (.rdword .key 0) .., decodeCommand_opByte (.rdword .val 0) ..⟩,
    fun s b a => exec_rdword_of_ge, fun s b a h ha => ?_⟩
  obtain ⟨word, hmem, hword, fits⟩ := h.exists_word ha
  exact ⟨word, hmem, exec_rdword_of_word hword fits⟩

/-- Settles O30: `UNPACK` answers what `unpack` gives, which is a lane of the word listed for the index. -/
theorem unpackReadsOneElement : Obligations.UnpackReadsOneElement := by
  refine ⟨fun idx data => ⟨decodeCommand_opByte (.unpack .key 0) .., decodeCommand_opByte (.unpack .val 0) ..⟩,
    fun s b i opened => exec_unpack_of_opened opened i, fun s b i => exec_unpack_of_ge, ?_⟩
  rintro s b i w e h closed hi rfl rfl
  obtain ⟨word, hmem, hunpack⟩ := h.exists_unpack closed hi
  exact ⟨word, hmem, exec_unpack_of_unpack h closed hi hunpack, hunpack⟩

/-- Settles O35: a refusal changes `ERR` alone, and a command that completes changes one bank. -/
theorem frameOfLoadSealAndSystemWrites : Obligations.FrameOfLoadSealAndSystemWrites := by
  refine ⟨fun b v s t h => ?_, fun b s t h => ?_, fun c v s t h => ?_, fun s t h => ?_⟩
  · cases exec_answers h with
    | ok d done =>
      obtain rfl := done.eq_of_ldword
      refine ⟨fun c hc => ?_, by simp, by simp, by simp, fun c a elsewhere => ?_, State.frame_ok_setBank rfl⟩
      · rw [State.bank_ok, State.bank_setBank_other s _ hc]
      · rw [State.word?_ok, State.word?_appended, if_neg elsewhere]
    | refused => exact ⟨fun c _ => by simp, by simp, by simp, by simp, fun c a _ => by simp, rfl⟩
  · cases exec_answers h with
    | ok d done =>
      obtain rfl := done.eq_of_sealBank
      refine ⟨fun c hc => ?_, by simp, fun c a => ?_, State.frame_ok_setBank rfl⟩
      · rw [State.bank_ok, State.bank_setBank_other s _ hc]
      · rw [State.word?_ok, State.word?_setBank_isSealed]
    | refused => exact ⟨fun c _ => by simp, by simp, fun c a => by simp, rfl⟩
  · cases exec_answers h with
    | ok d done =>
      obtain ⟨g, rfl, rfl⟩ := done.of_csrw
      obtain ⟨keyW, valW, keyLen, valLen⟩ := s.registers_writeTarget g v
      refine ⟨fun b => ?_, keyW, valW, keyLen, valLen, fun b a => ?_,
        State.frame_ok_setBank (congrArg (State.ok · d) (s.writeTarget_eq g v))⟩
      · obtain ⟨w, len, bank⟩ := s.bank_writeTarget g v b
        rw [State.bank_ok, bank]
      · rw [State.word?_ok, State.word?_writeTarget]
    | refused =>
      exact ⟨fun b => by simp, fun _ => rfl, fun _ => rfl, fun _ => rfl, fun _ => rfl, fun b a => by simp, rfl⟩
  · cases execRst_next h
    exact ⟨rfl, rfl⟩

/-- Settles O56: the bank holds the words loaded, as many as its length asks for, and `unpack` gives every element
packed back from them. -/
theorem loadedBankUnpacks : Obligations.LoadedBankUnpacks := by
  intro s t b w n words ready empty _ run ok
  obtain ⟨loaded, closed⟩ := Loaded.of_loadCommands ready.inv empty run ok
  refine ⟨fun i hi => ?_, fun values count packed i v hv => ?_⟩
  · obtain ⟨word, -, hunpack⟩ := loaded.inv.exists_unpack closed (hi.trans_eq loaded.length.symm)
    rw [loaded.params, loaded.width, loaded.words] at hunpack
    exact ⟨_, hunpack, loaded.exec_unpack closed hi hunpack⟩
  · obtain ⟨h1, h2⟩ := loaded.width_range closed
    have hi : i < n := count ▸ (List.getElem?_eq_some_iff.mp hv).1
    exact loaded.exec_unpack closed hi (unpack_of_pack ready.inv.legal.2.1 h1 h2 packed hv)

end Sys2Proof.Proofs
end

section
/-! SUPPORT. `GET`, case by case from the checks it passes: with both banks sealed it is two unpacks in series
(43_dictmap.md rules R150, R151). -/

namespace Sys2Proof.Machine

/-! ### The command `GET` (rule R151) -/

theorem exec_get_of_opened {s : State} (opened : s.key.isSealed = false ∨ s.val.isSealed = false) (k : Nat) :
    exec (.get k) s = .next (s.failed 6) := by
  have not_both : ¬ (s.key.isSealed && s.val.isSealed) = true := by
    rcases opened with h | h <;> simp [h]
  rw [exec, execGet, if_neg not_both]
  rfl

theorem exec_get_of_ge {s : State} {k : Nat} (keyClosed : s.key.isSealed = true) (valClosed : s.val.isSealed = true)
    (h : s.key.len ≤ k) : exec (.get k) s = .next (s.failed 3) := by
  rw [exec, execGet, keyClosed, valClosed, Bool.and_self, if_pos rfl, if_pos h]
  rfl

/-- Once the index is read, `GET` answers as `UNPACK` in bank VAL at that index does. -/
theorem exec_get_of_element {s : State} {k idx : Nat} (keyClosed : s.key.isSealed = true)
    (valClosed : s.val.isSealed = true) (hk : k < s.key.len) (hidx : s.element .key k = .ok idx) :
    exec (.get k) s = exec (.unpack .val idx) s := by
  change execGet k s = execUnpack .val idx s
  rw [execGet, execUnpack, keyClosed, State.bank_val, valClosed, Bool.and_self, if_pos rfl, if_pos rfl,
    if_neg (Nat.not_le.mpr hk), hidx]
  dsimp only
  cases s.element .val idx <;> rfl

/-- The same of the index that `unpack` gives on the words of bank KEY. -/
theorem exec_get_of_unpack {s : State} (h : s.Inv) {k idx : Nat} (keyClosed : s.key.isSealed = true)
    (valClosed : s.val.isSealed = true) (hk : k < s.key.len)
    (hidx : unpack s.params.wordBits s.key.w (s.key.mem.map Prod.snd) k = some idx) :
    exec (.get k) s = exec (.unpack .val idx) s :=
  exec_get_of_element keyClosed valClosed hk
    (h.element_of_unpack (b := .key) (h.key.closed keyClosed).1 hidx)

/-! ### The function `get` (rule R150) -/

theorem getOfMapping_of_ge {b : Nat} {m : Mapping} {k : Nat} (h : m.n ≤ k) :
    getOfMapping b m k = some (.error .keyOutOfRange) := if_pos h

theorem getOfMapping_of_index_ge {b : Nat} {m : Mapping} {k idx : Nat} (hk : k < m.n)
    (hidx : unpack b m.wi m.keyWords k = some idx) (h : m.k ≤ idx) :
    getOfMapping b m k = some (.error .indexOutOfRange) := by
  rw [getOfMapping, if_neg (Nat.not_le.mpr hk), hidx, Option.bind_some, if_pos h]

theorem getOfMapping_of_unpack {b : Nat} {m : Mapping} {k idx v : Nat} (hk : k < m.n)
    (hidx : unpack b m.wi m.keyWords k = some idx) (h : idx < m.k) (hv : unpack b m.wv m.valWords idx = some v) :
    getOfMapping b m k = some (.ok v) := by
  rw [getOfMapping, if_neg (Nat.not_le.mpr hk), hidx, Option.bind_some, if_neg (Nat.not_le.mpr h), hv, Option.map_some]

end Sys2Proof.Machine
end

section
/-! SUPPORT. A `BUILD` leaves in each bank the array packed there, and making the second array leaves the first as it is
(30_encoding.md rules R101, R103; 43_dictmap.md rule R152). -/

namespace Sys2Proof.Machine

/-- `x.HoldsArray b values`: the bank is sealed and holds `values` as an array of words of `b` bits (rule R114). -/
structure BankState.HoldsArray (x : BankState) (b : Nat) (values : List Nat) : Prop where
  closed : x.isSealed = true
  length : x.len = values.length
  words : pack b x.w values = .ok (x.mem.map Prod.snd)

theorem Packed.holdsArray {s t : State} {b : Bank} {values : List Nat} (h : Packed s b values t) :
    (t.bank b).HoldsArray t.params.wordBits values where
  closed := h.closed
  length := h.length
  words := by rw [h.params, h.width, h.words]

/-- Every element is read back from a bank that holds its array (41_packer.md rule R115). -/
theorem BankState.HoldsArray.unpack_eq {s : State} {b : Bank} {values : List Nat} (inv : s.Inv)
    (h : (s.bank b).HoldsArray s.params.wordBits values) {i v : Nat} (hi : values[i]? = some v) :
    unpack s.params.wordBits (s.bank b).w ((s.bank b).mem.map Prod.snd) i = some v :=
  unpack_of_pack inv.legal.2.1 ((inv.bank b).closed h.closed).1 (inv.bank b).width_le h.words hi

theorem Completes.eq_of_csrw {s u : State} {g : CsrTarget} {v : Nat}
    (hu : Completes s (.csrw (targetNumber g) v) u) : u = s.writeTarget g v := by
  obtain ⟨g', hg, rfl⟩ := hu.of_csrw
  obtain rfl : g = g' := Option.some.inj <| (bind_csrTarget_eq_some.mpr rfl).symm.trans (bind_csrTarget_eq_some.mpr hg)
  rfl

@[simp] theorem length_construction (b : Bank) (values : List Nat) :
    (construction b values).length = values.length + 2 := by simp [construction]

@[simp] theorem length_packCommands (b : Bank) (w : Nat) (values : List Nat) :
    (packCommands b w values).length = values.length + 3 := by simp [packCommands]

theorem length_buildCommands (wi wv : Nat) (keyIndices values : List Nat) :
    (buildCommands wi wv keyIndices values).length = keyIndices.length + values.length + 6 := by
  rw [buildCommands, List.length_append, length_packCommands, length_packCommands]
  omega

/-- A `PACK` answered with successes: its width is written, then its array is made. -/
theorem Packed.of_packCommands {s t : State} {b : Bank} {w : Nat} {values : List Nat} (h : s.Inv)
    (run : runAll (packCommands b w values) s = .next t) (ok : t.AllOkSince s (values.length + 3)) :
    ∃ u, Completes s (.csrw (widthCsr b) w) u ∧ Packed (u.ok 0) b values t := by
  obtain ⟨_, hwidth, hwidth_ok, run, ok⟩ := runAll_cons_allOk run (by simpa using ok)
  obtain ⟨u, hu, rfl⟩ := (exec_answers hwidth).completes_of_allOk hwidth_ok
  exact ⟨u, hu, .of_allOk ((hu.keeps_inv h).ok 0) run (by simpa using ok)⟩

/-- `Built keyIndices values t`: the banks of `t` hold the two arrays of a mapping. -/
structure Built (keyIndices values : List Nat) (t : State) : Prop where
  inv : t.Inv
  key : t.key.HoldsArray t.params.wordBits keyIndices
  val : t.val.HoldsArray t.params.wordBits values

/-- A `BUILD` answered with successes has built its mapping. -/
theorem Built.of_buildCommands {s t : State} {wi wv : Nat} {keyIndices values : List Nat} (h : s.Inv)
    (run : runAll (buildCommands wi wv keyIndices values) s = .next t)
    (ok : t.AllOkSince s (keyIndices.length + values.length + 6)) : Built keyIndices values t := by
  obtain ⟨m, hm, hm_ok, ht, ht_ok⟩ := runAll_append_allOk run (length_buildCommands wi wv keyIndices values ▸ ok)
  obtain ⟨_, -, key⟩ := Packed.of_packCommands h hm (by simpa using hm_ok)
  obtain ⟨u, hu, val⟩ := Packed.of_packCommands key.inv ht (by simpa using ht_ok)
  obtain rfl := hu.eq_of_csrw (g := .width .val)
  have key_bank : t.key = m.key := val.others .key (by decide)
  have params : t.params = m.params := val.params
  exact ⟨val.inv, by rw [key_bank, params]; exact key.holdsArray, val.holdsArray⟩

/-- `GET` on a mapping built answers the value at the index the key has. -/
theorem Built.exec_get {keyIndices values : List Nat} {t : State} (h : Built keyIndices values t) {k idx v : Nat}
    (hidx : keyIndices[k]? = some idx) (hv : values[idx]? = some v) : exec (.get k) t = .next (t.ok v) := by
  obtain ⟨inv, key, val⟩ := h
  have hk : k < t.key.len := (List.getElem?_eq_some_iff.mp hidx).1.trans_eq key.length.symm
  have hlt : idx < t.val.len := (List.getElem?_eq_some_iff.mp hv).1.trans_eq val.length.symm
  rw [exec_get_of_unpack inv key.closed val.closed hk (key.unpack_eq (b := .key) inv hidx)]
  exact exec_unpack_of_unpack (b := .val) inv val.closed hlt (val.unpack_eq (b := .val) inv hv)

end Sys2Proof.Machine
end

section
/-! PROOF. The statements about the dictionary mapping (43_dictmap.md). -/

namespace Sys2Proof.Proofs

open Sys2Proof.Machine

/-- Settles O55: `BUILD` leaves both arrays in the banks, and each of the two unpacks gives back the element packed. -/
theorem getAgreesWithTheOracle : Obligations.GetAgreesWithTheOracle := by
  intro s t wi wv keyIndices values ready _ run ok below
  have built := Built.of_buildCommands ready.inv run ok
  refine ⟨fun key hkey => ?_, fun key hkey =>
    exec_get_of_ge built.key.closed built.val.closed (built.key.length.trans_le hkey)⟩
  have hidx := List.getElem?_eq_getElem hkey
  have hv := List.getElem?_eq_getElem (below _ (List.getElem_mem hkey))
  exact ⟨_, by rw [naiveGet, hidx, Option.bind_some, hv], built.exec_get hidx hv⟩

/-- Settles O31: the index is the lane of the word listed for the key, and the value that of the word listed for the
index. -/
theorem getReadsThroughBothBanks : Obligations.GetReadsThroughBothBanks := by
  refine ⟨fun idx data => decodeCommand_opByte (.get 0) idx data, fun s k opened => exec_get_of_opened opened k,
    fun s k => exec_get_of_ge, ?_⟩
  rintro s k wi ei wv ev h keyClosed valClosed hk rfl rfl rfl rfl
  obtain ⟨kw, hkw, hidx⟩ := h.exists_unpack (b := .key) keyClosed hk
  have series := exec_get_of_unpack h keyClosed valClosed hk hidx
  refine ⟨kw, _, hkw, rfl, fun beyond => ?_, fun hlt => ?_⟩
  · exact series.trans (exec_unpack_of_ge (b := .val) valClosed beyond)
  · obtain ⟨vw, hvw, hv⟩ := h.exists_unpack (b := .val) valClosed hlt
    exact ⟨vw, hvw, series.trans (exec_unpack_of_unpack (b := .val) h valClosed hlt hv)⟩

/-- Settles O32: the command and the function make the same two comparisons, and the words they read exist. -/
theorem getIsTheMappingFunction : Obligations.GetIsTheMappingFunction := by
  intro s k h keyClosed valClosed
  rcases Nat.lt_or_ge k s.key.len with hk | hk
  · obtain ⟨_, -, hidx⟩ := h.exists_unpack (b := .key) keyClosed hk
    have series := exec_get_of_unpack h keyClosed valClosed hk hidx
    rcases Nat.lt_or_ge _ s.val.len with hlt | beyond
    · obtain ⟨_, -, hv⟩ := h.exists_unpack (b := .val) valClosed hlt
      exact .inl ⟨_, getOfMapping_of_unpack (m := s.mapping) hk hidx hlt hv,
        series.trans (exec_unpack_of_unpack (b := .val) h valClosed hlt hv)⟩
    · exact .inr (.inr ⟨getOfMapping_of_index_ge (m := s.mapping) hk hidx beyond,
        series.trans (exec_unpack_of_ge (b := .val) valClosed beyond)⟩)
  · exact .inr (.inl ⟨getOfMapping_of_ge (m := s.mapping) hk, exec_get_of_ge keyClosed valClosed hk⟩)

end Sys2Proof.Proofs
end

section
/-! SUPPORT. What `CSRR` answers for a number that names no register, and what `CSRW` does, check by check
(44_system.md rules R166, R167). -/

namespace Sys2Proof.Machine

/-! ### `CSRR` (rule R166) -/

theorem exec_csrr_of_no_register {c : Fin 16} (h : csrOfNumber c = none) (s : State) :
    exec (.csrr c) s = .next (s.failed 4) := by
  rw [exec, execCsrr, h]
  rfl

/-! ### `CSRW` (rule R167) -/

/-- The numbers that name no register and the read-only registers are all that a write has no target for. -/
theorem bind_csrTarget_eq_none {c : Fin 16} :
    (csrOfNumber c).bind csrTarget = none ↔ c ∈ [3, 13, 14, 15] ∨ c ∈ [0, 1, 2, 8, 9, 10, 11, 12] := by
  revert c; decide

theorem exec_csrw_of_no_target {c : Fin 16} (h : (csrOfNumber c).bind csrTarget = none) (s : State) (v : Nat) :
    exec (.csrw c v) s = .next (s.failed 4) := by
  rw [exec, execCsrw]
  cases hc : csrOfNumber c with
  | none => rfl
  | some r =>
    have readOnly : csrTarget r = none := by simpa [hc] using h
    simp only [readOnly]
    rfl

/-- A write to a read-write register passes three checks, the value last. -/
theorem exec_csrw_targetNumber (g : CsrTarget) (v : Nat) (s : State) :
    exec (.csrw (targetNumber g) v) s =
      if s.pkActive then .next (s.failed 7)
      else if (s.bank (targetBank g)).isSealed then .next (s.failed 5)
      else if targetAccepts s.params g v then .next ((s.writeTarget g v).ok 0)
      else .next (s.failed 8) := by
  rw [← State.respond_zero]
  obtain (_ | _) | (_ | _) := g <;> rfl

theorem exec_csrw_of_active {s : State} (active : s.pkActive = true) (g : CsrTarget) (v : Nat) :
    exec (.csrw (targetNumber g) v) s = .next (s.failed 7) := by
  rw [exec_csrw_targetNumber, if_pos active]

theorem exec_csrw_of_sealed {s : State} (idle : s.pkActive = false) {g : CsrTarget}
    (closed : (s.bank (targetBank g)).isSealed = true) (v : Nat) :
    exec (.csrw (targetNumber g) v) s = .next (s.failed 5) := by
  rw [exec_csrw_targetNumber, idle, if_neg Bool.false_ne_true, if_pos closed]

/-- On an open bank with no construction open the value decides. -/
theorem exec_csrw_of_opened {s : State} (idle : s.pkActive = false) {g : CsrTarget}
    (opened : (s.bank (targetBank g)).isSealed = false) (v : Nat) :
    exec (.csrw (targetNumber g) v) s =
      if targetAccepts s.params g v then .next ((s.writeTarget g v).ok 0) else .next (s.failed 8) := by
  rw [exec_csrw_targetNumber, idle, if_neg Bool.false_ne_true, opened, if_neg Bool.false_ne_true]

theorem exec_csrw_of_rejected {s : State} (idle : s.pkActive = false) {g : CsrTarget}
    (opened : (s.bank (targetBank g)).isSealed = false) {v : Nat} (rejects : ¬ targetAccepts s.params g v = true) :
    exec (.csrw (targetNumber g) v) s = .next (s.failed 8) :=
  (exec_csrw_of_opened idle opened v).trans (if_neg rejects)

theorem exec_csrw_of_accepted {s : State} (idle : s.pkActive = false) {g : CsrTarget}
    (opened : (s.bank (targetBank g)).isSealed = false) {v : Nat} (accepts : targetAccepts s.params g v = true) :
    exec (.csrw (targetNumber g) v) s = .next ((s.writeTarget g v).ok 0) :=
  (exec_csrw_of_opened idle opened v).trans (if_pos accepts)

theorem targetAccepts_width {p : Params} {b : Bank} {v : Nat} :
    targetAccepts p (.width b) v = true ↔ 1 ≤ v ∧ v ≤ p.wordBits := decide_eq_true_iff

theorem targetAccepts_length {p : Params} {b : Bank} {v : Nat} :
    targetAccepts p (.length b) v = true ↔ v < 2 ^ p.idxBits := decide_eq_true_iff

end Sys2Proof.Machine
end

section
/-! PROOF. The statements about the system commands (44_system.md). -/

namespace Sys2Proof.Proofs

open Sys2Proof.Machine

/-- Settles O20: the number names the register the table lists, and a value that fits is answered unchanged. -/
theorem csrrReadsTheRegister : Obligations.CsrrReadsTheRegister := by
  refine ⟨fun c => decodeCommand_opByte (.csrr c),
    fun s c h => exec_csrr_of_no_register (csrOfNumber_eq_none.mpr h) s, fun s c v hkey hval h fits => ?_⟩
  obtain ⟨r, hc, hv⟩ := csrValue_of_registerTable hkey hval h
  rw [exec_csrr_of_csrValue hc hv, zext_of_lt fits]

/-- Settles O22: the four read-write registers are the width and the length of a bank, and each check is that of the
target. -/
theorem csrwWritesTheRegister : Obligations.CsrwWritesTheRegister := by
  refine ⟨fun c => decodeCommand_opByte (.csrw c 0),
    fun s c v h => exec_csrw_of_no_target (bind_csrTarget_eq_none.mpr h) s v, fun s b cw cl c v numbers => ?_⟩
  obtain ⟨rfl, rfl⟩ : cw = targetNumber (.width b) ∧ cl = targetNumber (.length b) := by
    obtain ⟨rfl, rfl, rfl⟩ | ⟨rfl, rfl, rfl⟩ := numbers <;> exact ⟨rfl, rfl⟩
  refine ⟨?_, ?_, fun idle opened hv => ?_, fun idle opened hv => ?_, fun idle opened h1 h2 => ?_,
    fun idle opened hv => ?_⟩
  · rintro (rfl | rfl) active <;> exact exec_csrw_of_active active _ v
  · rintro (rfl | rfl) idle closed
    · exact exec_csrw_of_sealed (g := .width b) idle closed v
    · exact exec_csrw_of_sealed (g := .length b) idle closed v
  · exact exec_csrw_of_rejected (g := .width b) idle opened (by rw [targetAccepts_width]; omega)
  · exact exec_csrw_of_rejected (g := .length b) idle opened (by rw [targetAccepts_length]; omega)
  · exact exec_csrw_of_accepted (g := .width b) idle opened (targetAccepts_width.mpr ⟨h1, h2⟩)
  · exact exec_csrw_of_accepted (g := .length b) idle opened (targetAccepts_length.mpr hv)

/-- Settles O19: the response is all that changes. -/
theorem nopDoesNothing : Obligations.NopDoesNothing := ⟨decodeCommand_opByte .nop, State.respond_zero⟩

/-- Settles O23: `State.clearAll` gives every register the value that 10_state.md rule R45 lists. -/
theorem rstReturnsToReset : Obligations.RstReturnsToReset :=
  ⟨decodeCommand_opByte .rst, fun s => s.clearAll.respond_zero⟩

end Sys2Proof.Proofs
end

section
/-! SUPPORT. The errors each command can end in (60_exceptions.md rule R190). -/

namespace Sys2Proof.Machine

/-- `PKPUSH` ends in a success, in `PackerState` with nothing else changed, or in an error that aborts the construction
(41_packer.md rule R112). -/
theorem exec_pkpush_errors {v : Nat} {s t : State} (h : exec (.pkpush v) s = .next t) :
    (∃ u d, t = State.ok u d) ∨ t = s.failed 7 ∨ t = s.aborted.failed 1 ∨ t = s.aborted.failed 9 := by
  obtain ⟨-, ht⟩ | ⟨-, _, -, ⟨-, ht⟩ | ⟨-, -, ht⟩ | ⟨-, -, -, _, -, ht⟩ | ⟨-, -, -, ht⟩⟩ := execPkpush_next h
  · exact .inr (.inl ht)
  · exact .inr (.inr (.inl ht))
  · exact .inr (.inr (.inr ht))
  · exact .inl ⟨_, _, ht⟩
  · exact .inl ⟨_, _, ht⟩

/-- Every other command ends in a success, or in an error that changes nothing else. -/
theorem Answers.errors_of_not_pkpush {s t : State} {i : Instr} (ht : Answers s i t) (hi : ¬ ∃ v, i = .pkpush v) :
    (∃ u d, t = State.ok u d) ∨ ∃ n, (1 ≤ n ∧ n ≤ 11) ∧ t = s.failed n := by
  cases ht with
  | ok d done => exact .inl ⟨_, d, rfl⟩
  | refused code => exact .inr ⟨_, code, rfl⟩
  | aborted => exact absurd ⟨_, rfl⟩ hi

end Sys2Proof.Machine
end

section
/-! SUPPORT. From a state of the invariant every command whose operands fit is answered, and so is every word presented
(70_reset_and_hazards.md rule R221). -/

namespace Sys2Proof.Machine

/-! ### One command -/

theorem State.Inv.exists_csrValue {s : State} (h : s.Inv) (r : Csr) : ∃ v, s.csrValue r = .ok v := by
  cases r with
  | epwKey => exact ⟨_, State.epwView_of_le h.key.width_le⟩
  | epwVal => exact ⟨_, State.epwView_of_le h.val.width_le⟩
  | wordbits | status | err | wKey | wVal | lenKey | lenVal | nwKey | nwVal | pkCount => exact ⟨_, rfl⟩

theorem State.Inv.exists_exec_csrr {s : State} (h : s.Inv) (c : Fin 16) : ∃ t, exec (.csrr c) s = .next t := by
  cases hc : csrOfNumber c with
  | none => exact ⟨_, exec_csrr_of_no_register hc s⟩
  | some r =>
    obtain ⟨v, hv⟩ := h.exists_csrValue r
    exact ⟨_, exec_csrr_of_csrValue hc hv⟩

theorem exists_exec_csrw (s : State) (c : Fin 16) (v : Nat) : ∃ t, exec (.csrw c v) s = .next t := by
  cases hc : (csrOfNumber c).bind csrTarget with
  | none => exact ⟨_, exec_csrw_of_no_target hc s v⟩
  | some g =>
    rw [bind_csrTarget_eq_some.mp hc, exec_csrw_targetNumber]
    split_ifs <;> exact ⟨_, rfl⟩

theorem exists_exec_pkbegin (s : State) (b : Bank) : ∃ t, exec (.pkbegin b) s = .next t := by
  cases active : s.pkActive with
  | true => exact ⟨_, exec_pkbegin_of_active active b⟩
  | false =>
    rw [exec_pkbegin_of_idle active]
    split_ifs <;> exact ⟨_, rfl⟩

theorem State.Inv.exists_exec_pkpush {s : State} (h : s.Inv) (v : Nat) : ∃ t, exec (.pkpush v) s = .next t := by
  cases active : s.pkActive with
  | false => exact ⟨_, exec_pkpush_of_idle active v⟩
  | true =>
    rw [exec_pkpush_of_active h active]
    split_ifs <;> exact ⟨_, rfl⟩

theorem State.Inv.exists_exec_pkend {s : State} (h : s.Inv) : ∃ t, exec .pkend s = .next t := by
  cases active : s.pkActive with
  | false => exact ⟨_, exec_pkend_of_idle active⟩
  | true =>
    obtain ⟨_, -, ht⟩ := exists_completes_pkend h active
    exact ⟨_, ht⟩

theorem State.Inv.exists_exec_ldword {s : State} (h : s.Inv) (b : Bank) {v : Nat} (fits : v < 2 ^ s.params.wordBits) :
    ∃ t, exec (.ldword b v) s = .next t := by
  cases active : s.pkActive with
  | true => exact ⟨_, exec_ldword_of_active active b v⟩
  | false =>
    cases closed : (s.bank b).isSealed with
    | true => exact ⟨_, exec_ldword_of_sealed active closed v⟩
    | false =>
      rcases (h.bank b).nw_le.eq_or_lt with full | room
      · exact ⟨_, exec_ldword_of_full active closed full v⟩
      · exact ⟨_, exec_ldword_of_room active closed room fits⟩

theorem State.Inv.exists_exec_sealBank {s : State} (h : s.Inv) (b : Bank) : ∃ t, exec (.sealBank b) s = .next t := by
  cases active : s.pkActive with
  | true => exact ⟨_, exec_sealBank_of_active active b⟩
  | false =>
    cases closed : (s.bank b).isSealed with
    | true => exact ⟨_, exec_sealBank_of_sealed active closed⟩
    | false =>
      rcases Nat.eq_zero_or_pos (s.bank b).w with unset | configured
      · exact ⟨_, exec_sealBank_of_unset active closed unset⟩
      · rw [exec_sealBank_of_configured active closed configured (h.bank b).width_le]
        split_ifs <;> exact ⟨_, rfl⟩

theorem State.Inv.exists_exec_rdword {s : State} (h : s.Inv) (b : Bank) (a : Nat) :
    ∃ t, exec (.rdword b a) s = .next t := by
  rcases Nat.lt_or_ge a (s.bank b).nw with ha | ha
  · obtain ⟨_, -, hword, fits⟩ := h.exists_word ha
    exact ⟨_, exec_rdword_of_word hword fits⟩
  · exact ⟨_, exec_rdword_of_ge ha⟩

theorem State.Inv.exists_exec_unpack {s : State} (h : s.Inv) (b : Bank) (i : Nat) :
    ∃ t, exec (.unpack b i) s = .next t := by
  cases closed : (s.bank b).isSealed with
  | false => exact ⟨_, exec_unpack_of_opened closed i⟩
  | true =>
    rcases Nat.lt_or_ge i (s.bank b).len with hi | hi
    · obtain ⟨_, -, hunpack⟩ := h.exists_unpack closed hi
      exact ⟨_, exec_unpack_of_unpack h closed hi hunpack⟩
    · exact ⟨_, exec_unpack_of_ge closed hi⟩

/-! ### `GET` of a sealed mapping (43_dictmap.md rules R150, R151) -/

/-- The response to `GET` where the function `get` gives `answer`. -/
def getResponse : Option (Except ErrorKind Nat) → Response
  | some (.ok v) => ⟨0#8, v⟩
  | some (.error e) => ⟨errorStatus e, 0⟩
  | none => ⟨0#8, 0⟩

/-- With both banks sealed the response to `GET` rests on the mapping in them alone. -/
theorem State.Inv.exec_get {s : State} (h : s.Inv) (keyClosed : s.key.isSealed = true)
    (valClosed : s.val.isSealed = true) (k : Nat) :
    exec (.get k) s = .next (s.answered (getResponse (getOfMapping s.params.wordBits s.mapping k))) := by
  obtain ⟨v, hget, hexec⟩ | ⟨hget, hexec⟩ | ⟨hget, hexec⟩ :=
    Proofs.getIsTheMappingFunction s k h keyClosed valClosed <;> rw [hget, hexec]
  · exact congrArg _ (s.answered_success v).symm
  · exact congrArg _ (s.answered_error (by decide)).symm
  · exact congrArg _ (s.answered_error (by decide)).symm

theorem State.Inv.exists_exec_get {s : State} (h : s.Inv) (k : Nat) : ∃ t, exec (.get k) s = .next t := by
  cases keyClosed : s.key.isSealed with
  | false => exact ⟨_, exec_get_of_opened (.inl keyClosed) k⟩
  | true =>
    cases valClosed : s.val.isSealed with
    | false => exact ⟨_, exec_get_of_opened (.inr valClosed) k⟩
    | true => exact ⟨_, h.exec_get keyClosed valClosed k⟩

/-! ### Every command and every word presented -/

theorem State.Inv.exists_exec {s : State} (h : s.Inv) {i : Instr} (fits : i.WellFormed s.params) :
    ∃ t, exec i s = .next t := by
  cases i with
  | nop => exact ⟨_, s.respond_zero⟩
  | csrr c => exact h.exists_exec_csrr c
  | csrw c v => exact exists_exec_csrw s c v
  | pkbegin b => exact exists_exec_pkbegin s b
  | pkpush v => exact h.exists_exec_pkpush v
  | pkend => exact h.exists_exec_pkend
  | ldword b v => exact h.exists_exec_ldword b (of_decide_eq_true fits)
  | sealBank b => exact h.exists_exec_sealBank b
  | rdword b a => exact h.exists_exec_rdword b a
  | unpack b i => exact h.exists_exec_unpack b i
  | get k => exact h.exists_exec_get k
  | rst => exact ⟨_, s.clearAll.respond_zero⟩

/-- The operands decoded from a word fit, and a reserved op byte is answered with an error. -/
theorem State.Inv.exists_step_of_command {s : State} (h : s.Inv) {bits : Nat} {rest : List HostEvent}
    (hport : s.port = .command bits :: rest) : ∃ t, step s = .next t := by
  cases hd : decode s.params bits with
  | instr i =>
    rw [Proofs.stepRunsTheDecodedCommand s bits rest i h.legal hport hd]
    exact (h.with_port rest).exists_exec (Proofs.decodedOperandsFitTheirFields s.params bits i hd)
  | reservedOp op =>
    rw [step, if_pos h.legal, State.takeEvent_cons hport]
    simp only [hd]
    exact ⟨_, rfl⟩

end Sys2Proof.Machine
end

section
/-! SUPPORT. A mapping sealed in the two banks outlasts every word presented that is no `RST` (10_state.md rule R37,
60_exceptions.md rule R196). -/

namespace Sys2Proof.Machine

theorem Answers.port_eq {s t : State} {i : Instr} (ht : Answers s i t) : t.port = s.port := by
  cases ht with
  | ok d done => simpa using done.port_eq
  | refused => rfl
  | aborted => simp

/-- A mapping is sealed in the two banks of a state of the invariant. -/
structure State.Mapped (s : State) : Prop where
  inv : s.Inv
  keyClosed : s.key.isSealed = true
  valClosed : s.val.isSealed = true

/-- `t` holds the mapping of `s`, in banks of the same build. -/
structure SameMapping (s t : State) : Prop where
  params : t.params = s.params
  key : t.key = s.key
  val : t.val = s.val

theorem SameMapping.refl (s : State) : SameMapping s s := ⟨rfl, rfl, rfl⟩

theorem SameMapping.trans {s u t : State} (hu : SameMapping s u) (ht : SameMapping u t) : SameMapping s t :=
  ⟨ht.params.trans hu.params, ht.key.trans hu.key, ht.val.trans hu.val⟩

theorem SameMapping.mapped {s t : State} (h : SameMapping s t) (mapped : s.Mapped) (inv : t.Inv) : t.Mapped :=
  ⟨inv, h.key ▸ mapped.keyClosed, h.val ▸ mapped.valClosed⟩

theorem SameMapping.mapping_eq {s t : State} (h : SameMapping s t) : t.mapping = s.mapping := by
  rw [State.mapping, State.mapping, h.key, h.val]

theorem State.Mapped.sameMapping_of_exec {s t : State} (h : s.Mapped) {i : Instr} (not_rst : i ≠ .rst)
    (ht : exec i s = .next t) : SameMapping s t :=
  have answers := exec_answers ht
  ⟨answers.params_eq, answers.bank_eq_of_isSealed h.inv not_rst (b := .key) h.keyClosed,
    answers.bank_eq_of_isSealed h.inv not_rst (b := .val) h.valClosed⟩

/-- A step with a word presented that is no `RST` takes the word and keeps the mapping. -/
theorem State.Mapped.sameMapping_of_step {s t : State} (h : s.Mapped) {bits : Nat} {rest : List HostEvent}
    (hport : s.port = .command bits :: rest) (not_rst : decode s.params bits ≠ .instr .rst) (ht : step s = .next t) :
    t.port = rest ∧ SameMapping s t := by
  obtain ⟨-, ⟨hp, -⟩ | ⟨_, _, hp, -⟩ | ⟨_, _, i, hp, hd, hexec⟩ | ⟨_, _, _, hp, -, rfl⟩⟩ := step_next ht
  all_goals cases hport.symm.trans hp
  · have taken : ({ s with port := rest } : State).Mapped := ⟨h.inv.with_port rest, h.keyClosed, h.valClosed⟩
    obtain ⟨params, key, val⟩ := taken.sameMapping_of_exec (fun hi => not_rst (hi ▸ hd)) hexec
    exact ⟨(exec_answers hexec).port_eq, params, key, val⟩
  · exact ⟨rfl, rfl, rfl, rfl⟩

/-- So does a run of steps that takes all the words presented, and the block answers each. -/
theorem State.Mapped.exists_runSteps {words : List Nat} {rest : List HostEvent} {s : State} (h : s.Mapped)
    (hport : s.port = words.map .command ++ rest) (no_rst : ∀ w ∈ words, decode s.params w ≠ .instr .rst) :
    ∃ t, runSteps words.length s = .next t ∧ t.port = rest ∧ t.Mapped ∧ SameMapping s t := by
  induction words generalizing s with
  | nil => exact ⟨s, rfl, hport, h, .refl s⟩
  | cons w words ih =>
    obtain ⟨not_rst, no_rst⟩ := List.forall_mem_cons.mp no_rst
    obtain ⟨u, hu⟩ := h.inv.exists_step_of_command hport
    obtain ⟨hu_port, hsame⟩ := h.sameMapping_of_step hport not_rst hu
    obtain ⟨t, ht, ht_port, ht_mapped, ht_same⟩ :=
      ih (hsame.mapped h (step_keeps_inv h.inv hu)) hu_port (hsame.params.symm ▸ no_rst)
    exact ⟨t, runSteps_succ_next.mpr ⟨u, hu, ht⟩, ht_port, ht_mapped, hsame.trans ht_same⟩

/-- Two states with the same mapping answer every `GET` alike. -/
theorem SameMapping.same_response_to_get {s t : State} (h : SameMapping s t) (hs : s.Mapped) (ht : t.Mapped) (k : Nat) :
    ∃ s' t' r, exec (.get k) s = .next s' ∧ exec (.get k) t = .next t' ∧
      s'.responses = r :: s.responses ∧ t'.responses = r :: t.responses := by
  have hget := ht.inv.exec_get ht.keyClosed ht.valClosed k
  rw [h.params, h.mapping_eq] at hget
  exact ⟨_, _, _, hs.inv.exec_get hs.keyClosed hs.valClosed k, hget, rfl, rfl⟩

end Sys2Proof.Machine
end

section
/-! PROOF. The statements about errors (60_exceptions.md). -/

namespace Sys2Proof.Proofs

open Sys2Proof.Machine

/-- Settles O43, by induction on the words presented: each is answered and leaves both banks, and what `GET` answers
rests on the banks alone. -/
theorem sealedMappingSurvivesErrors : Obligations.SealedMappingSurvivesErrors := by
  intro words rest s inv keyClosed valClosed hport no_rst
  have mapped : s.Mapped := ⟨inv, keyClosed, valClosed⟩
  obtain ⟨t, run, ht_port, ht_mapped, same⟩ := mapped.exists_runSteps hport no_rst
  exact ⟨t, run, ht_port, same.key, same.val, same.same_response_to_get mapped ht_mapped⟩

/-- Settles O36: `PKPUSH` by its three errors, every other command by the one form of its errors. -/
theorem errorEntryChangesOnlyErr : Obligations.ErrorEntryChangesOnlyErr := by
  refine ⟨fun i s t r h hr herr => ?_, fun op s => s.raise_eq .illegalCommand⟩
  by_cases hi : ∃ v, i = .pkpush v
  · obtain ⟨v, rfl⟩ := hi
    obtain ⟨u, d, rfl⟩ | rfl | rfl | rfl := exec_pkpush_errors h
    · exact absurd (State.status_ok hr) herr
    all_goals obtain ⟨rfl, -⟩ := List.cons.inj hr
    · exact ⟨rfl, fun aborts => absurd aborts.2 (by decide), fun _ => rfl⟩
    · exact ⟨rfl, fun _ => rfl, fun kept => absurd ⟨⟨v, rfl⟩, .inl rfl⟩ kept⟩
    · exact ⟨rfl, fun _ => rfl, fun kept => absurd ⟨⟨v, rfl⟩, .inr rfl⟩ kept⟩
  · obtain ⟨u, d, rfl⟩ | ⟨n, code, rfl⟩ := (exec_answers h).errors_of_not_pkpush hi
    · exact absurd (State.status_ok hr) herr
    · obtain ⟨rfl, -⟩ := List.cons.inj hr
      exact ⟨rfl, fun aborts => absurd aborts.1 hi, fun _ => by rw [toNat_status code]⟩

end Sys2Proof.Proofs
end

section
/-! SUPPORT. A step that takes a reset, and one with nothing presented (70_reset_and_hazards.md rule R210). -/

namespace Sys2Proof.Machine

theorem step_of_nothing_presented {s : State} (legal : s.params.Legal) (hport : s.port = []) : step s = .next s := by
  rw [step, if_pos legal, State.takeEvent_nil hport]

theorem step_of_reset {s : State} (legal : s.params.Legal) {lost : List Nat} {rest : List HostEvent}
    (hport : s.port = .reset lost :: rest) : step s = .next ({ s with port := rest } : State).clearAll := by
  rw [step, if_pos legal, State.takeEvent_cons hport]
  rfl

end Sys2Proof.Machine
end

section
/-! SUPPORT. The registers right after reset (10_state.md rule R45), and a bank with its first word. -/

namespace Sys2Proof.Machine

theorem registerTable_init (p : Params) :
    (State.init p).registerTable =
      (0, p.wordBits) :: ([1, 2, 4, 5, 6, 7, 8, 9, 10, 11, 12] : List (Fin 16)).map fun c => (c, 0) := rfl

/-- The first word of a bank goes to address 0 (20_memory.md rule R77). -/
theorem BankState.appended_reset (v : Nat) : BankState.reset.appended v = ⟨0, 0, 1, false, [(0, v)]⟩ := rfl

end Sys2Proof.Machine
end

section
/-! PROOF. The statements about reset and about what every state of the invariant does next
(70_reset_and_hazards.md). -/

namespace Sys2Proof.Proofs

open Sys2Proof.Machine

/-- Settles O13, by what is presented: with nothing the block waits, a reset is taken with legal parameters, and every
word is answered. -/
theorem stepAlwaysAnswers : Obligations.StepAlwaysAnswers := by
  intro s h
  cases hport : s.port with
  | nil => exact ⟨s, step_of_nothing_presented h.legal hport⟩
  | cons event rest =>
    cases event with
    | reset lost => exact ⟨_, step_of_reset h.legal hport⟩
    | command bits => exact h.exists_step_of_command hport

/-- Settles O18: each command meets the check it fails on a block with no construction open and two open, empty banks
without a width; a register answers what the register table lists, and a bank with a word takes one. -/
theorem firstCommandsAfterReset : Obligations.FirstCommandsAfterReset := by
  rintro p _ - rfl
  have csrr {c : Fin 16} {v : Nat} (listed : (c, v) ∈ (State.init p).registerTable) (fits : v < 2 ^ p.wordBits) :
      exec (.csrr c) (State.init p) = .next ((State.init p).ok v) :=
    csrrReadsTheRegister.2.2 _ c v (Nat.zero_le _) (Nat.zero_le _) listed fits
  have idle : (State.init p).pkActive = false := State.pkActive_init p
  have opened (b : Bank) : ((State.init p).bank b).isSealed = false := by simp
  have unset (b : Bank) : ((State.init p).bank b).w = 0 := by simp
  have empty (b : Bank) : ((State.init p).bank b).nw = 0 := by simp
  refine ⟨?wordbits, fun c hc => ?registers, fun k => ?get, fun b i => ?unpack, fun b a => ?rdword, fun v => ?pkpush,
    ?pkend, fun b => ?pkbegin, fun b => ?sealBank, fun b w room fits => ?ldword, fun b w full => ?ldword_full⟩
  case wordbits => exact csrr (registerTable_init p ▸ List.mem_cons_self) Nat.lt_two_pow_self
  case registers =>
    refine csrr ?_ (Nat.two_pow_pos _)
    rw [registerTable_init]
    exact List.mem_cons_of_mem _ (List.mem_map_of_mem hc)
  case get => exact exec_get_of_opened (.inl (opened .key)) k
  case unpack => exact exec_unpack_of_opened (opened b) i
  case rdword => exact exec_rdword_of_ge ((empty b).trans_le (Nat.zero_le a))
  case pkpush => exact exec_pkpush_of_idle idle v
  case pkend => exact exec_pkend_of_idle idle
  case pkbegin => rw [exec_pkbegin_of_idle idle, opened b, if_neg Bool.false_ne_true, if_pos (unset b)]
  case sealBank => exact exec_sealBank_of_unset idle (opened b) (unset b)
  case ldword =>
    rw [exec_ldword_of_room idle (opened b) ((empty b).trans_lt room) fits, State.bank_init, BankState.appended_reset]
  case ldword_full => exact exec_ldword_of_full idle (opened b) ((empty b).trans full.symm) w

/-- Settles O8: reset from outside and `RST` both leave what `State.clearAll` gives, which is `State.afterReset` by
definition; `RST` adds its response. -/
theorem externalResetAndWaiting : Obligations.ExternalResetAndWaiting :=
  ⟨fun _ _ _ legal hport => step_of_reset legal hport, rstReturnsToReset.2,
    fun _ legal hport => step_of_nothing_presented legal hport⟩

end Sys2Proof.Proofs
end

section
/-! PROOF. The statement about the command words that the test vectors write out (95_test_vectors.md sections 2.4 to
2.8). -/

namespace Sys2Proof.Proofs

open Sys2Proof.Machine

/-- Settles O6: five of the words are encodings of their commands, so O1 gives what they decode to; the sixth joins the
reserved byte 0x32 and two fields that fit. -/
theorem specEncodingsDecode : Obligations.SpecEncodingsDecode := by
  have decodes {bits : Nat} {i : Instr} (fits : i.WellFormed Config.reference)
      (encoding : encode Config.reference i = bits) : decode Config.reference bits = .instr i :=
    encoding ▸ decodeOfEncodeIsTheCommand _ i fits
  have fields : splitCommand Config.reference (0x32DEADBEEF * 2 ^ 256 + 0x1234) = ⟨0x32, 0xDEADBEEF, 0x1234⟩ :=
    splitCommand_joinCommand (c := ⟨0x32, 0xDEADBEEF, 0x1234⟩) (by decide) (by decide) (by decide)
  have reserved : ReservedByte 0x32 := by decide
  refine ⟨decodes rfl rfl, decodes rfl rfl, decodes rfl rfl, decodes rfl rfl, decodes rfl rfl, ?_⟩
  rw [decode, fields, decodeCommand_reservedByte reserved]

end Sys2Proof.Proofs
end
